-- ==== Sys2Proof/Word.lean ====
section
/-! DEFINITION. The word types of the block (00_scope.md R7, R8; 30_encoding.md R46). -/

namespace Sys2Proof

/-- A register slot and the data port: `XLEN` = 32 bits (R7). -/
abbrev Word := BitVec 32

/-- The command word on `req_word`: 8 bits (R46). -/
abbrev CmdWord := BitVec 8

end Sys2Proof
end

