-- ==== Sys2Proof/Syntax.lean ====
section
/-! DEFINITION. The closed enumerations of the spec (R12) and the commands: one constructor per row of
spec/opcode_table.json. The operand of a write is not part of the word; it stands on the port (R50). -/

namespace Sys2Proof

/-- A processor mode (R2, R11, R96). -/
inductive Mode
  | user | fiq | irq | supervisor | abort | undefined | system
  deriving DecidableEq, Repr

/-- An instruction state (R2, R11). -/
inductive InstrState
  | arm | thumb
  deriving DecidableEq, Repr

/-- A logical register reference (R33, R48): `low n` is r`n`, `high n` is r`8+n`. -/
inductive RegRef
  | low (n : Fin 8)
  | high (n : Fin 5)
  | sp | lr | pc | cpsr | spsr
  deriving DecidableEq, Repr

/-- A command: what a command word says. `ign` holds the ignored bits 4:0 of NOP, MODE and STATE (R49).
The last four constructors are the table's reserved rows (R55). -/
inductive Instr
  | nop (ign : BitVec 5)
  | rdLo (n : Fin 8)
  | rdHi (n : Fin 5)
  | rdSp
  | rdLr
  | rdPc
  | rdCpsr
  | rdSpsr
  | wrLo (n : Fin 8)
  | wrHi (n : Fin 5)
  | wrSp
  | wrLr
  | wrPc
  | wrCpsr
  | wrSpsr
  | mode (ign : BitVec 5)
  | state (ign : BitVec 5)
  /-- `cmd` = 0b101: words 0xA0..0xBF. -/
  | reservedCmd5 (ref : BitVec 5)
  /-- `cmd` = 0b110 or 0b111: words 0xC0..0xFF, `bits` is the word's bits 5:0. -/
  | reservedCmd67 (bits : BitVec 6)
  /-- RD with a reference code in 18..31. -/
  | reservedRd (ref : BitVec 5)
  /-- WR with a reference code in 18..31. -/
  | reservedWr (ref : BitVec 5)
  deriving DecidableEq, Repr

/-- The reference an RD command reads; none for every other command. -/
def Instr.readRef? : Instr → Option RegRef
  | .rdLo n => some (.low n)
  | .rdHi n => some (.high n)
  | .rdSp => some .sp
  | .rdLr => some .lr
  | .rdPc => some .pc
  | .rdCpsr => some .cpsr
  | .rdSpsr => some .spsr
  | .nop _ | .wrLo _ | .wrHi _ | .wrSp | .wrLr | .wrPc | .wrCpsr | .wrSpsr | .mode _ | .state _ => none
  | .reservedCmd5 _ | .reservedCmd67 _ | .reservedRd _ | .reservedWr _ => none

/-- The reference a WR command writes; none for every other command. -/
def Instr.writeRef? : Instr → Option RegRef
  | .wrLo n => some (.low n)
  | .wrHi n => some (.high n)
  | .wrSp => some .sp
  | .wrLr => some .lr
  | .wrPc => some .pc
  | .wrCpsr => some .cpsr
  | .wrSpsr => some .spsr
  | .nop _ | .rdLo _ | .rdHi _ | .rdSp | .rdLr | .rdPc | .rdCpsr | .rdSpsr | .mode _ | .state _ => none
  | .reservedCmd5 _ | .reservedCmd67 _ | .reservedRd _ | .reservedWr _ => none

/-- The table's reserved rows (R55). -/
def Instr.isReserved : Instr → Bool
  | .reservedCmd5 _ | .reservedCmd67 _ | .reservedRd _ | .reservedWr _ => true
  | .nop _ | .rdLo _ | .rdHi _ | .rdSp | .rdLr | .rdPc | .rdCpsr | .rdSpsr => false
  | .wrLo _ | .wrHi _ | .wrSp | .wrLr | .wrPc | .wrCpsr | .wrSpsr | .mode _ | .state _ => false

end Sys2Proof
end

