-- ==== Sys2Proof/WellFormed.lean ====
section
/-! DEFINITION. Which terms of Instr are commands of the table. The operand types carry every bound but one: a reserved
RD or WR row is only for the reference codes 18..31 (30_encoding.md R55; the table's constraint on those rows). -/

namespace Sys2Proof

/-- A reference code that names no register: 18..31 (R48, R55). -/
def reservedRefCode (ref : BitVec 5) : Bool := decide (18 ≤ ref.toNat)

/-- The check. -/
def Instr.wellFormed : Instr → Bool
  | .reservedRd ref => reservedRefCode ref
  | .reservedWr ref => reservedRefCode ref
  | .nop _ | .rdLo _ | .rdHi _ | .rdSp | .rdLr | .rdPc | .rdCpsr | .rdSpsr => true
  | .wrLo _ | .wrHi _ | .wrSp | .wrLr | .wrPc | .wrCpsr | .wrSpsr | .mode _ | .state _ => true
  | .reservedCmd5 _ | .reservedCmd67 _ => true

end Sys2Proof
end

