-- ==== Sys2Proof/Decode.lean ====
section
/-! DEFINITION. The command decoder and encoder (30_encoding.md R46 to R49, R55, R56; the encoding is the spec's own
decision D8 to D10, log 9). Total on all 256 words; it never looks at the mode or the T bit (R56). -/

namespace Sys2Proof

/-- Bits 7:5, the operation (R46). -/
def cmdField (w : CmdWord) : BitVec 3 := w.extractLsb' 5 3

/-- Bits 4:0, the reference (R46). -/
def refField (w : CmdWord) : BitVec 5 := w.extractLsb' 0 5

/-- The reference a code names (R48); none for the reserved codes 18..31 (R55). -/
def refOfCode (c : BitVec 5) : Option RegRef :=
  if h : c.toNat < 8 then some (.low ⟨c.toNat, h⟩)
  else if h : c.toNat - 8 < 5 then some (.high ⟨c.toNat - 8, h⟩)
  else match c with
    | 13#5 => some .sp
    | 14#5 => some .lr
    | 15#5 => some .pc
    | 16#5 => some .cpsr
    | 17#5 => some .spsr
    | _ => none

/-- The RD command of a reference (rows RD.LO .. RD.SPSR). -/
def rdInstr : RegRef → Instr
  | .low n => .rdLo n
  | .high n => .rdHi n
  | .sp => .rdSp
  | .lr => .rdLr
  | .pc => .rdPc
  | .cpsr => .rdCpsr
  | .spsr => .rdSpsr

/-- The WR command of a reference (rows WR.LO .. WR.SPSR). -/
def wrInstr : RegRef → Instr
  | .low n => .wrLo n
  | .high n => .wrHi n
  | .sp => .wrSp
  | .lr => .wrLr
  | .pc => .wrPc
  | .cpsr => .wrCpsr
  | .spsr => .wrSpsr

/-- `cmd` = RD. -/
def decodeRd (ref : BitVec 5) : Instr :=
  match refOfCode ref with
  | some r => rdInstr r
  | none => .reservedRd ref

/-- `cmd` = WR. -/
def decodeWr (ref : BitVec 5) : Instr :=
  match refOfCode ref with
  | some r => wrInstr r
  | none => .reservedWr ref

/-- The command a word says, by the operation codes of R47. A reserved word decodes to its reserved row, by name, so
that it never falls through to a neighbour. -/
def decode (w : CmdWord) : Instr :=
  match cmdField w with
  | 0b000#3 => .nop (refField w)
  | 0b001#3 => decodeRd (refField w)
  | 0b010#3 => decodeWr (refField w)
  | 0b011#3 => .mode (refField w)
  | 0b100#3 => .state (refField w)
  | 0b101#3 => .reservedCmd5 (refField w)
  | _ => .reservedCmd67 (w.extractLsb' 0 6)

/-- The code of a reference (R48). -/
def refCode : RegRef → BitVec 5
  | .low n => BitVec.ofNat 5 n
  | .high n => BitVec.ofNat 5 (8 + n)
  | .sp => 13#5
  | .lr => 14#5
  | .pc => 15#5
  | .cpsr => 16#5
  | .spsr => 17#5

/-- `{cmd, ref}` (R46). -/
def commandWord (cmd : BitVec 3) (ref : BitVec 5) : CmdWord := cmd ++ ref

/-- The word of a command (R46 to R49). -/
def encode : Instr → CmdWord
  | .nop ign => commandWord 0b000#3 ign
  | .rdLo n => commandWord 0b001#3 (refCode (.low n))
  | .rdHi n => commandWord 0b001#3 (refCode (.high n))
  | .rdSp => commandWord 0b001#3 (refCode .sp)
  | .rdLr => commandWord 0b001#3 (refCode .lr)
  | .rdPc => commandWord 0b001#3 (refCode .pc)
  | .rdCpsr => commandWord 0b001#3 (refCode .cpsr)
  | .rdSpsr => commandWord 0b001#3 (refCode .spsr)
  | .wrLo n => commandWord 0b010#3 (refCode (.low n))
  | .wrHi n => commandWord 0b010#3 (refCode (.high n))
  | .wrSp => commandWord 0b010#3 (refCode .sp)
  | .wrLr => commandWord 0b010#3 (refCode .lr)
  | .wrPc => commandWord 0b010#3 (refCode .pc)
  | .wrCpsr => commandWord 0b010#3 (refCode .cpsr)
  | .wrSpsr => commandWord 0b010#3 (refCode .spsr)
  | .mode ign => commandWord 0b011#3 ign
  | .state ign => commandWord 0b100#3 ign
  | .reservedCmd5 ref => commandWord 0b101#3 ref
  | .reservedCmd67 bits => 0b11#2 ++ bits
  | .reservedRd ref => commandWord 0b001#3 ref
  | .reservedWr ref => commandWord 0b010#3 ref

/-- The decoder on a word numbered as the table numbers it: one 8-bit word, bit 0 the least significant (R8, R46); none for
a number that is no command word. -/
def decodeTableWord (nbits w : Nat) : Option Instr :=
  if nbits ≤ 8 ∧ w < 2 ^ nbits then some (decode (BitVec.ofNat 8 w)) else none

end Sys2Proof
end

