-- ==== Sys2Proof/Config.lean ====
section
/-! DEFINITION. The values the spec fixes for this block by decision (92_eei_decisions.md D4, D5). The block has no
parameter left open (R7) and no free value. -/

namespace Sys2Proof

/-- CPSR at reset (10_state.md R29): I = F = 1, ARM state, Supervisor; N, Z, C, V and bits 27:8 zero by D4 (log 6). -/
def Config.cpsrReset : Word := 0x000000D3#32

/-- Every slot but CPSR at reset (10_state.md R30): zero, by D5 for all but SP[4] and HI_FIQ[0] (log 6). -/
def Config.slotReset : Word := 0x00000000#32

end Sys2Proof
end

