-- ==== Sys2Proof/Machine/State.lean ====
section
/-! DEFINITION. The state: the 37 slots of 10_state.md R19, and the block's ports (30_encoding.md R44) as plain data: the input
pins of this cycle and of later cycles, and the response outputs of the last one. Nothing else is state (R24, R25). -/

namespace Sys2Proof.Machine

/-- The physical slots of `banked_register_file` (R19). -/
structure RegFile where
  /-- LO[0..8]: r0..r7 in every mode and state. -/
  lo : Vector Word 8
  /-- HI_USR[0..5]: r8..r12 in every mode but FIQ. -/
  hiUsr : Vector Word 5
  /-- HI_FIQ[0..5]: r8..r12 in FIQ. -/
  hiFiq : Vector Word 5
  pc : Word
  /-- SP[0..6], by bank index. -/
  sp : Vector Word 6
  /-- LR[0..6], by bank index. -/
  lr : Vector Word 6
  /-- SPSR[1..6]: SPSR[k] stands at k - 1; there is no SPSR[0] (R22, C3, log 10). -/
  spsr : Vector Word 5
  cpsr : Word
  deriving DecidableEq, Repr

/-- The name of one physical slot (R9, R19). `spsr j` is SPSR[j + 1]. -/
inductive Slot
  | lo (i : Fin 8)
  | hiUsr (i : Fin 5)
  | hiFiq (i : Fin 5)
  | pc
  | sp (k : Fin 6)
  | lr (k : Fin 6)
  | spsr (j : Fin 5)
  | cpsr
  deriving DecidableEq, Repr

/-- The input pins in one cycle (R44). -/
structure PortIn where
  /-- `rst`: synchronous reset (R101). -/
  rst : Bool
  /-- `req_valid`: a command is presented. -/
  reqValid : Bool
  /-- `req_word`: the command word (R46). -/
  reqWord : CmdWord
  /-- `req_wdata`: the value a WR stores. -/
  reqWdata : Word
  deriving DecidableEq, Repr

/-- All pins 0: no reset and no command. -/
def PortIn.idle : PortIn := ⟨false, false, 0#8, 0#32⟩

/-- The outcome names of `resp_code` (R51). -/
inductive RespCode
  | ok | invalidMachineState | invalidAccess | reservedEncoding
  deriving DecidableEq, Repr

/-- The response outputs `resp_code` and `resp_rdata` (R44, R51, R52). -/
structure Response where
  code : RespCode
  rdata : Word
  deriving DecidableEq, Repr

/-- Both outputs 0, as in a cycle with no command (R44, log 13). -/
def Response.zero : Response := ⟨.ok, 0#32⟩

/-- `regs` is the spec's whole state (R24); the other fields are the model's, for the ports (log 1, log 3). -/
structure State where
  regs : RegFile
  /-- The input pins of the present cycle. -/
  port : PortIn
  /-- The input pins of the cycles after it, the next first; idle once the list is used up. -/
  later : List PortIn
  /-- The response outputs of the last cycle performed. No command reads it. -/
  resp : Response
  deriving DecidableEq, Repr

/-- Why the run stops. -/
inductive Fault
  /-- INVALID_MACHINE_STATE (60_exceptions.md R86): raised by MODE, STATE, RD and WR of sp, lr, spsr, and RD and WR of r8..r12 in
  ARM state, when the mode field of CPSR is no legal pattern. The spec makes it a fault of the run (D13), the state as it
  stood before the command. Safe: nothing is claimed of a run past it (log 4). -/
  | invalidMachineState
  deriving DecidableEq, Repr

/-- Why a command has no meaning. -/
inductive Refusal
  /-- No command answers this: every constructor has its meaning. -/
  | notModelled (mnemonic : String)
  /-- RESERVED_ENCODING (60_exceptions.md R88, 30_encoding.md R55): raised by the reserved rows of the table; `word` is the
  command word. "A model refuses such a word." Safe (log 5). -/
  | reservedEncoding (word : CmdWord)
  deriving DecidableEq, Repr

/-- The two error kinds of a register access or query (R9, R85): the `raise` forms of the pseudocode. -/
inductive RegError
  | invalidMachineState
  | invalidAccess (ref : RegRef)
  deriving DecidableEq, Repr

/-- What a command, and a step, answers. -/
abbrev StepResult := Host.Outcome State Fault Refusal

/-- The slots right after reset (R29, R30). -/
def RegFile.reset : RegFile where
  lo := .replicate 8 Config.slotReset
  hiUsr := .replicate 5 Config.slotReset
  hiFiq := .replicate 5 Config.slotReset
  pc := Config.slotReset
  sp := .replicate 6 Config.slotReset
  lr := .replicate 6 Config.slotReset
  spsr := .replicate 5 Config.slotReset
  cpsr := Config.cpsrReset

/-- The machine right after reset (R29, R30, R101, R102), no command presented (log 11). -/
def State.reset : State where
  regs := RegFile.reset
  port := .idle
  later := []
  resp := .zero

end Sys2Proof.Machine
end

