-- ==== Sys2Proof/Machine/Flags.lean ====
section
/-! DEFINITION. The field projections of a status word (10_state.md R14 to R18, 40_decoder.md R63), read without validation. The
positions of I, F, T and M are decision D1 (log 7). The block computes no flag: a flag changes only by a write of CPSR (R14).
Bits 27:8 carry no field and are kept verbatim with the rest of the word (R18). -/

namespace Sys2Proof.Machine

/-- N, bit 31 (R14). -/
def flagN (w : Word) : Bool := w.getLsbD 31

/-- Z, bit 30 (R14). -/
def flagZ (w : Word) : Bool := w.getLsbD 30

/-- C, bit 29 (R14). -/
def flagC (w : Word) : Bool := w.getLsbD 29

/-- V, bit 28 (R14). -/
def flagV (w : Word) : Bool := w.getLsbD 28

/-- I, bit 7: 1 is IRQ disabled (R15). -/
def irqDisable (w : Word) : Bool := w.getLsbD 7

/-- F, bit 6: 1 is FIQ disabled (R15). -/
def fiqDisable (w : Word) : Bool := w.getLsbD 6

/-- T, bit 5: 0 is ARM, 1 is Thumb (R16). -/
def stateField (w : Word) : BitVec 1 := w.extractLsb' 5 1

/-- M, bits 4:0 (R17). -/
def modeField (w : Word) : BitVec 5 := w.extractLsb' 0 5

end Sys2Proof.Machine
end

