-- ==== Sys2Proof/Machine/ModeDecoder.lean ====
section
/-! DEFINITION. `register_mode_decoder` (40_decoder.md): `decode_mode`, `decode_state`, `bank_index`, the codes of 30_encoding.md R53 and
R54, and the field output ports of R45. All are functions of the live CPSR; none is cached (R24, R64). -/

namespace Sys2Proof.Machine

/-- The 5-bit pattern of a mode (R59; the ARM architecture's, decision D2, log 7). -/
def modePattern : Mode → BitVec 5
  | .user => 0b10000#5
  | .fiq => 0b10001#5
  | .irq => 0b10010#5
  | .supervisor => 0b10011#5
  | .abort => 0b10111#5
  | .undefined => 0b11011#5
  | .system => 0b11111#5

/-- `decode_mode` (R59, R60): `none` is InvalidMachineState. Only bits 4:0 are examined. -/
def decodeMode (w : Word) : Option Mode :=
  match modeField w with
  | 0b10000#5 => some .user
  | 0b10001#5 => some .fiq
  | 0b10010#5 => some .irq
  | 0b10011#5 => some .supervisor
  | 0b10111#5 => some .abort
  | 0b11011#5 => some .undefined
  | 0b11111#5 => some .system
  | _ => none

/-- `decode_state` (R61): total, and blind to the mode field. -/
def decodeState (w : Word) : InstrState :=
  if stateField w = 0#1 then .arm else .thumb

/-- `bank_index` (R62): the fixed, non-monotonic table. -/
def bankIndex : Mode → Fin 6
  | .user => 0
  | .system => 0
  | .fiq => 1
  | .supervisor => 2
  | .abort => 3
  | .irq => 4
  | .undefined => 5

/-- The mode code (R53), in the order of the source's enumeration. -/
def modeCode : Mode → BitVec 3
  | .user => 0#3
  | .fiq => 1#3
  | .irq => 2#3
  | .supervisor => 3#3
  | .abort => 4#3
  | .undefined => 5#3
  | .system => 6#3

/-- The state code (R54). -/
def stateCode : InstrState → BitVec 1
  | .arm => 0#1
  | .thumb => 1#1

/-- The decoder's output ports (R45). -/
structure FieldOutputs where
  modeBits : BitVec 5
  modeValid : Bool
  modeCode : BitVec 3
  bankIdx : BitVec 3
  stateT : BitVec 1
  flagN : Bool
  flagZ : Bool
  flagC : Bool
  flagV : Bool
  irqDisable : Bool
  fiqDisable : Bool
  deriving DecidableEq, Repr

/-- `mode_code` and `bank_idx` on the port: 0b111 where no mode is legal (R45, R53). -/
def modeCodePort (w : Word) : BitVec 3 :=
  match decodeMode w with
  | some m => modeCode m
  | none => 0b111#3

/-- See `modeCodePort`. -/
def bankIdxPort (w : Word) : BitVec 3 :=
  match decodeMode w with
  | some m => BitVec.ofNat 3 (bankIndex m)
  | none => 0b111#3

/-- The field outputs driven in every cycle from the live CPSR `w`, before any write of that cycle (R45, R63). -/
def fieldOutputs (w : Word) : FieldOutputs where
  modeBits := modeField w
  modeValid := (decodeMode w).isSome
  modeCode := modeCodePort w
  bankIdx := bankIdxPort w
  stateT := stateField w
  flagN := Sys2Proof.Machine.flagN w
  flagZ := Sys2Proof.Machine.flagZ w
  flagC := Sys2Proof.Machine.flagC w
  flagV := Sys2Proof.Machine.flagV w
  irqDisable := Sys2Proof.Machine.irqDisable w
  fiqDisable := Sys2Proof.Machine.fiqDisable w

/-- The field outputs of the present cycle (R45). -/
def State.outputs (s : State) : FieldOutputs := fieldOutputs s.regs.cpsr

end Sys2Proof.Machine
end

