-- ==== Sys2Proof/Machine/Operands.lean ====
section
/-! DEFINITION. `banked_register_file` and `regbank_access_mux`: reading and writing one slot (10_state.md R9, R19), resolving a
logical reference to a slot (41_access.md R67), and the four functions of the source (30_encoding.md R44). -/

namespace Sys2Proof.Machine

/-- The value a slot holds. No slot is hard-wired (R27). -/
def RegFile.read (r : RegFile) : Slot → Word
  | .lo i => r.lo[i]
  | .hiUsr i => r.hiUsr[i]
  | .hiFiq i => r.hiFiq[i]
  | .pc => r.pc
  | .sp k => r.sp[k]
  | .lr k => r.lr[k]
  | .spsr j => r.spsr[j]
  | .cpsr => r.cpsr

/-- The slots after one whole-word write, the value verbatim (R18, R36, R37). -/
def RegFile.write (r : RegFile) (sl : Slot) (v : Word) : RegFile :=
  match sl with
  | .lo i => { r with lo := r.lo.set i v }
  | .hiUsr i => { r with hiUsr := r.hiUsr.set i v }
  | .hiFiq i => { r with hiFiq := r.hiFiq.set i v }
  | .pc => { r with pc := v }
  | .sp k => { r with sp := r.sp.set k v }
  | .lr k => { r with lr := r.lr.set k v }
  | .spsr j => { r with spsr := r.spsr.set j v }
  | .cpsr => { r with cpsr := v }

/-- Where SPSR[k] stands: none for bank 0, which has no SPSR (R22, C3, log 10). -/
def spsrSlot (k : Fin 6) : Option Slot :=
  if h : k.val = 0 then none else some (.spsr ⟨k.val - 1, by omega⟩)

/-- r`8+n` (R67): the state is tested before the mode (D6, log 8). -/
def resolveHigh (n : Fin 5) (w : Word) : Except RegError Slot :=
  match decodeState w with
  | .thumb => .error (.invalidAccess (.high n))
  | .arm =>
    match decodeMode w with
    | none => .error .invalidMachineState
    | some .fiq => .ok (.hiFiq n)
    | some _ => .ok (.hiUsr n)

/-- SP and LR (R67): the slot of the live mode's bank. -/
def resolveBanked (slot : Fin 6 → Slot) (w : Word) : Except RegError Slot :=
  match decodeMode w with
  | none => .error .invalidMachineState
  | some m => .ok (slot (bankIndex m))

/-- SPSR (R67): none in User and System mode. -/
def resolveSpsr (w : Word) : Except RegError Slot :=
  match decodeMode w with
  | none => .error .invalidMachineState
  | some .user => .error (.invalidAccess .spsr)
  | some .system => .error (.invalidAccess .spsr)
  | some m =>
    match spsrSlot (bankIndex m) with
    | some sl => .ok sl
    | none => .error (.invalidAccess .spsr)

/-- `resolve(ref, w)` (R67): the slot a reference names under the status word `w`. The mode is decoded only where the slot
depends on it (D6). -/
def resolve (ref : RegRef) (w : Word) : Except RegError Slot :=
  match ref with
  | .low n => .ok (.lo n)
  | .pc => .ok .pc
  | .cpsr => .ok .cpsr
  | .high n => resolveHigh n w
  | .sp => resolveBanked .sp w
  | .lr => resolveBanked .lr w
  | .spsr => resolveSpsr w

/-- `get_register(ref)` (R44). -/
def getRegister (ref : RegRef) (r : RegFile) : Except RegError Word :=
  match resolve ref r.cpsr with
  | .ok sl => .ok (r.read sl)
  | .error e => .error e

/-- `set_register(ref, value)` (R44): the reference is resolved under the CPSR before the write (R40). -/
def setRegister (ref : RegRef) (v : Word) (r : RegFile) : Except RegError RegFile :=
  match resolve ref r.cpsr with
  | .ok sl => .ok (r.write sl v)
  | .error e => .error e

/-- `current_mode()` (R44, R65). -/
def currentMode (r : RegFile) : Except RegError Mode :=
  match decodeMode r.cpsr with
  | none => .error .invalidMachineState
  | some m => .ok m

/-- `current_state()` (R44, R66): fails with an illegal mode field although `decode_state` cannot (C2). -/
def currentState (r : RegFile) : Except RegError InstrState :=
  match decodeMode r.cpsr with
  | none => .error .invalidMachineState
  | some _ => .ok (decodeState r.cpsr)

/-- The operand of a WR: `req_wdata` of the present cycle (R50). -/
def State.wdata (s : State) : Word := s.port.reqWdata

end Sys2Proof.Machine
end

