-- ==== Sys2Proof/Machine/Ops.lean ====
section
/-! DEFINITION. The shared operations of the commands (responding, raising an error, reading and writing through a reference) and of
the port's cycle (30_encoding.md R44, 70_reset_and_hazards.md R101). The block has no memory (R34) and takes no exception (R93);
the command sequences by which an external sequencer does are in Machine/Sequencer.lean. -/

namespace Sys2Proof.Machine

/-- The bits of `resp_code` (R51). -/
def respCodeBits : RespCode → BitVec 2
  | .ok => 0b00#2
  | .invalidMachineState => 0b01#2
  | .invalidAccess => 0b10#2
  | .reservedEncoding => 0b11#2

/-- `respond(code, data)` (R9). -/
def State.respond (s : State) (code : RespCode) (data : Word) : State :=
  { s with resp := ⟨code, data⟩ }

/-- `raise` of an access error (R9): no slot is written (R83). INVALID_ACCESS is recoverable, so the machine goes on with that
response and data 0 (R87, R52); INVALID_MACHINE_STATE is a fault of the run (R86, D13, log 4). -/
def raiseError (e : RegError) (s : State) : StepResult :=
  match e with
  | .invalidAccess _ => .next (s.respond .invalidAccess 0#32)
  | .invalidMachineState => .fault .invalidMachineState

/-- `raise ReservedEncoding(word)` (R9): refused (R55, R88, D10, log 5). -/
def raiseReserved (word : CmdWord) : StepResult :=
  .refused (.reservedEncoding word)

/-- OK with data, or the error. -/
def answer (r : Except RegError Word) (s : State) : StepResult :=
  match r with
  | .ok v => .next (s.respond .ok v)
  | .error e => raiseError e s

/-- RD of a reference (R69 to R75). -/
def readRef (ref : RegRef) (s : State) : StepResult :=
  answer (getRegister ref s.regs) s

/-- WR of a reference (R76 to R82): OK with data 0 (R52). -/
def writeRef (ref : RegRef) (v : Word) (s : State) : StepResult :=
  match setRegister ref v s.regs with
  | .ok r => .next ({ s with regs := r }.respond .ok 0#32)
  | .error e => raiseError e s

/-- The command presented in this cycle (R44, R46). -/
def State.command (s : State) : Instr := decode s.port.reqWord

/-- The rising edge: the next cycle's pins (log 2). -/
def State.advance (s : State) : State :=
  { s with port := s.later.headD .idle, later := s.later.tail }

/-- A cycle with `rst` = 1 (R101): every slot at its reset value, the presented command not performed, response outputs 0. -/
def State.resetCycle (s : State) : State :=
  { s with regs := RegFile.reset, resp := .zero }

/-- A cycle with no command and no reset (R44): nothing changes, response outputs 0. -/
def State.idleCycle (s : State) : State :=
  { s with resp := .zero }

/-- A performed command, then the rising edge. -/
def thenAdvance (o : StepResult) : StepResult :=
  match o with
  | .next t => .next t.advance
  | .fault f => .fault f
  | .refused r => .refused r

/-- The pins with a command on them. -/
def PortIn.ofWord (w : CmdWord) (v : Word) : PortIn := ⟨false, true, w, v⟩

/-- The pins of the present cycle with the command word `w` on them and no reset; `req_wdata` and the later cycles stand as
they are (log 12). -/
def State.present (s : State) (w : CmdWord) : State :=
  { s with port := .ofWord w s.port.reqWdata }

end Sys2Proof.Machine
end

