-- ==== Sys2Proof/Machine/Idle.lean ====
section
/-! DEFINITION. NOP (41_access.md R68). -/

namespace Sys2Proof.Machine

/-- NOP (R68): OK, data 0, whatever CPSR holds; the `ref` field is ignored (R49). -/
def execNop (_ign : BitVec 5) (s : State) : StepResult := .next (s.respond .ok 0#32)

end Sys2Proof.Machine
end

