-- ==== Sys2Proof/Machine/Query.lean ====
section
/-! DEFINITION. MODE and STATE (40_decoder.md R65, R66). -/

namespace Sys2Proof.Machine

/-- The code of a query's result as response data (R52): zero-extended, or the error. -/
def codeData {α : Type} {n : Nat} (code : α → BitVec n) (r : Except RegError α) : Except RegError Word :=
  match r with
  | .ok a => .ok ((code a).setWidth 32)
  | .error e => .error e

/-- MODE (R65): the mode code (R53); INVALID_MACHINE_STATE with an illegal mode field. -/
def execMode (_ign : BitVec 5) (s : State) : StepResult :=
  answer (codeData modeCode (currentMode s.regs)) s

/-- STATE (R66): the state code (R54); INVALID_MACHINE_STATE with an illegal mode field. -/
def execState (_ign : BitVec 5) (s : State) : StepResult :=
  answer (codeData stateCode (currentState s.regs)) s

end Sys2Proof.Machine
end

