-- ==== Sys2Proof/Machine/RegRead.lean ====
section
/-! DEFINITION. The RD rows (41_access.md R69 to R75): `get_register`. No slot is written. -/

namespace Sys2Proof.Machine

/-- RD r0..r7 (R69): OK with LO[n] in every mode and state, and with an illegal mode field. -/
def execRdLo (n : Fin 8) (s : State) : StepResult := readRef (.low n) s

/-- RD r8..r12 (R70): INVALID_ACCESS in Thumb state; then the mode; FIQ reads HI_FIQ, every other mode HI_USR. -/
def execRdHi (n : Fin 5) (s : State) : StepResult := readRef (.high n) s

/-- RD sp (R71): SP of the live bank; the T bit has no effect. -/
def execRdSp (s : State) : StepResult := readRef .sp s

/-- RD lr (R72): LR of the live bank; the T bit has no effect. -/
def execRdLr (s : State) : StepResult := readRef .lr s

/-- RD pc (R73): the stored word, no offset, whatever CPSR holds. -/
def execRdPc (s : State) : StepResult := readRef .pc s

/-- RD cpsr (R74): all 32 bits, whatever they are (D6). -/
def execRdCpsr (s : State) : StepResult := readRef .cpsr s

/-- RD spsr (R75): SPSR of the live bank; INVALID_ACCESS in User and System mode. -/
def execRdSpsr (s : State) : StepResult := readRef .spsr s

end Sys2Proof.Machine
end

