-- ==== Sys2Proof/Machine/RegWrite.lean ====
section
/-! DEFINITION. The WR rows (41_access.md R76 to R82): `set_register` of `req_wdata`. -/

namespace Sys2Proof.Machine

/-- WR r0..r7 (R76): in every mode and state; r0 is an ordinary register (R27). -/
def execWrLo (n : Fin 8) (s : State) : StepResult := writeRef (.low n) s.wdata s

/-- WR r8..r12 (R77): errors as RD r8..r12; FIQ writes HI_FIQ, every other mode HI_USR. -/
def execWrHi (n : Fin 5) (s : State) : StepResult := writeRef (.high n) s.wdata s

/-- WR sp (R78): SP of the live bank, no alignment (R36). -/
def execWrSp (s : State) : StepResult := writeRef .sp s.wdata s

/-- WR lr (R79): LR of the live bank. -/
def execWrLr (s : State) : StepResult := writeRef .lr s.wdata s

/-- WR pc (R80): verbatim; no fetch, no branch, the T bit unchanged. -/
def execWrPc (s : State) : StepResult := writeRef .pc s.wdata s

/-- WR cpsr (R81): all 32 bits replaced, no validation (R18) and no privilege check (D18); the new mode and state govern the
next command (R40). -/
def execWrCpsr (s : State) : StepResult := writeRef .cpsr s.wdata s

/-- WR spsr (R82): SPSR of the live bank, the value not validated; INVALID_ACCESS in User and System mode. -/
def execWrSpsr (s : State) : StepResult := writeRef .spsr s.wdata s

end Sys2Proof.Machine
end

