-- ==== Sys2Proof/Machine/Reserved.lean ====
section
/-! DEFINITION. The reserved rows of the opcode table (30_encoding.md R55, 60_exceptions.md R88): "a model refuses such a word". What the
block itself does with one (RESERVED_ENCODING, data 0, no write) is in Machine/Port.lean. -/

namespace Sys2Proof.Machine

/-- RESERVED.CMD, words 0xA0..0xBF. -/
def execReservedCmd5 (ref : BitVec 5) (_s : State) : StepResult := raiseReserved (encode (.reservedCmd5 ref))

/-- RESERVED.CMD, words 0xC0..0xFF. -/
def execReservedCmd67 (bits : BitVec 6) (_s : State) : StepResult := raiseReserved (encode (.reservedCmd67 bits))

/-- RESERVED.RD, words 0x32..0x3F. -/
def execReservedRd (ref : BitVec 5) (_s : State) : StepResult := raiseReserved (encode (.reservedRd ref))

/-- RESERVED.WR, words 0x52..0x5F. -/
def execReservedWr (ref : BitVec 5) (_s : State) : StepResult := raiseReserved (encode (.reservedWr ref))

end Sys2Proof.Machine
end

