-- ==== Sys2Proof/Machine/Dispatch.lean ====
section
/-! DEFINITION. One arm per command. -/

namespace Sys2Proof.Machine

def exec (i : Instr) (s : State) : Host.Outcome State Fault Refusal :=
  match i with
  | .nop ign => Sys2Proof.Machine.execNop ign s
  | .rdLo n => Sys2Proof.Machine.execRdLo n s
  | .rdHi n => Sys2Proof.Machine.execRdHi n s
  | .rdSp => Sys2Proof.Machine.execRdSp s
  | .rdLr => Sys2Proof.Machine.execRdLr s
  | .rdPc => Sys2Proof.Machine.execRdPc s
  | .rdCpsr => Sys2Proof.Machine.execRdCpsr s
  | .rdSpsr => Sys2Proof.Machine.execRdSpsr s
  | .wrLo n => Sys2Proof.Machine.execWrLo n s
  | .wrHi n => Sys2Proof.Machine.execWrHi n s
  | .wrSp => Sys2Proof.Machine.execWrSp s
  | .wrLr => Sys2Proof.Machine.execWrLr s
  | .wrPc => Sys2Proof.Machine.execWrPc s
  | .wrCpsr => Sys2Proof.Machine.execWrCpsr s
  | .wrSpsr => Sys2Proof.Machine.execWrSpsr s
  | .mode ign => Sys2Proof.Machine.execMode ign s
  | .state ign => Sys2Proof.Machine.execState ign s
  | .reservedCmd5 ref => Sys2Proof.Machine.execReservedCmd5 ref s
  | .reservedCmd67 bits => Sys2Proof.Machine.execReservedCmd67 bits s
  | .reservedRd ref => Sys2Proof.Machine.execReservedRd ref s
  | .reservedWr ref => Sys2Proof.Machine.execReservedWr ref s

end Sys2Proof.Machine
end

