-- ==== Sys2Proof/Machine/Step.lean ====
section
/-! DEFINITION. One step is one cycle of the request port (30_encoding.md R44, log 2): reset first (R101), then the presented command,
else nothing. A command's step is the spec's step (00_scope.md R10). -/

namespace Sys2Proof.Machine

/-- One cycle. -/
def step (s : State) : Host.Outcome State Fault Refusal :=
  if s.port.rst then .next s.resetCycle.advance
  else if s.port.reqValid then thenAdvance (exec s.command s)
  else .next s.idleCycle.advance

/-- The command word `w` on the request port of the present cycle, so that the very next step performs it (log 11, log 12). -/
def State.withFetchWord (s : State) (_nbits w : Nat) : State :=
  s.present (BitVec.ofNat 8 w)

end Sys2Proof.Machine
end

