-- ==== Sys2Proof/Machine/Port.lean ====
section
/-! DEFINITION. The block's own cycle, total: "Every error is a value on `resp_code`, never a halt of the block" (60_exceptions.md R89). `step`
is the run of a session, which stops where the spec makes a model stop (R86, R88); `blockStep` is the hardware, which responds,
writes nothing and takes the next cycle's command (log 15). -/

namespace Sys2Proof.Machine

/-- The response of a cycle that faults the run (R51, R52, R86). -/
def faultResponse : Fault → Response
  | .invalidMachineState => ⟨.invalidMachineState, 0#32⟩

/-- The response of a cycle whose word a model refuses (R51, R52, R55, R88). -/
def refusalResponse (_r : Refusal) : Response := ⟨.reservedEncoding, 0#32⟩

/-- One cycle of the block (R44's `step : State -> Request -> Response × State`): the next state holds the response. -/
def blockStep (s : State) : State :=
  match step s with
  | .next t => t
  | .fault f => { s with resp := faultResponse f }.advance
  | .refused r => { s with resp := refusalResponse r }.advance

/-- The response outputs in the present cycle, a combinational function of the slots and the pins (R44). -/
def State.respOut (s : State) : Response := (blockStep s).resp

end Sys2Proof.Machine
end

