-- ==== Sys2Proof/Machine/Sequencer.lean ====
section
/-! DEFINITION. What callers outside the block do with its ordinary commands: the pseudo-instructions (30_encoding.md R58), the exception entry
and return of an external sequencer (60_exceptions.md R93, R94) and the set-up of a stack (70_reset_and_hazards.md R104). Each is a list of
port inputs; the values the caller computes between commands are arguments (log 14). -/

namespace Sys2Proof.Machine

/-- A command on the pins, with its operand. -/
def PortIn.ofInstr (i : Instr) (v : Word) : PortIn := .ofWord (encode i) v

/-- RD of a reference on the pins. -/
def PortIn.rd (ref : RegRef) : PortIn := .ofInstr (rdInstr ref) 0#32

/-- WR of a reference on the pins. -/
def PortIn.wr (ref : RegRef) (v : Word) : PortIn := .ofInstr (wrInstr ref) v

/-- An assertion of `rst` (R101); a command on the other pins is not performed. -/
def PortIn.reset : PortIn := ⟨true, false, 0#8, 0#32⟩

/-- The state with a script on its port: the first input in this cycle, the rest in the cycles after it. -/
def State.withScript (s : State) (l : List PortIn) : State :=
  { s with port := l.headD .idle, later := l.tail }

/-- The value SETMODE writes: `(v AND 0xFFFFFFE0) OR P` (R58). -/
def setModeValue (m : Mode) (v : Word) : Word :=
  (v &&& 0xFFFFFFE0#32) ||| (modePattern m).setWidth 32

/-- The value SETSTATE writes (R58). -/
def setStateValue (st : InstrState) (v : Word) : Word :=
  match st with
  | .arm => v &&& 0xFFFFFFDF#32
  | .thumb => v ||| 0x00000020#32

/-- SETMODE, where the RD gives `v` (R58). -/
def setModeScript (m : Mode) (v : Word) : List PortIn := [.rd .cpsr, .wr .cpsr (setModeValue m v)]

/-- SETSTATE, where the RD gives `v` (R58). -/
def setStateScript (st : InstrState) (v : Word) : List PortIn := [.rd .cpsr, .wr .cpsr (setStateValue st v)]

/-- A stack for mode `m` (R104): SETMODE, then `WR sp, top`. -/
def stackScript (m : Mode) (v top : Word) : List PortIn := setModeScript m v ++ [.wr .sp top]

/-- Exception entry by an external sequencer (R93): `v` is the CPSR the RD gives, `new` the CPSR of the mode entered. -/
def exceptionEntry (v new returnAddr vector : Word) : List PortIn :=
  [.rd .cpsr, .wr .cpsr new, .wr .spsr v, .wr .lr returnAddr, .wr .pc vector]

/-- Return by an external sequencer (R94): SPSR and LR are read while still in the mode, then pc and at last cpsr are written. -/
def exceptionReturn (target status : Word) : List PortIn :=
  [.rd .spsr, .rd .lr, .wr .pc target, .wr .cpsr status]

end Sys2Proof.Machine
end

