-- ==== Sys2Proof/Machine/Assembler.lean ====
section
/-! DEFINITION. The assembler syntax of 30_encoding.md R57 and R58 over lists of characters (decision D21; what the rules leave open about
white space is log 16). The block sees only the port inputs a line stands for. -/

namespace Sys2Proof.Machine

/-- What one line says. -/
inductive AsmLine
  /-- A command, with the operand of a WR (0 for any other). -/
  | command (i : Instr) (wdata : Word)
  /-- The pseudo-instructions (R58). -/
  | setMode (m : Mode)
  | setState (st : InstrState)
  /-- `; reset`: an assertion of `rst`. -/
  | reset
  deriving DecidableEq, Repr

/-- Register names, each reference's own name first, then `r13`, `r14`, `r15` (R48, R57). -/
def regNames : List (List Char × RegRef) :=
  [("r0".toList, .low 0), ("r1".toList, .low 1), ("r2".toList, .low 2), ("r3".toList, .low 3), ("r4".toList, .low 4),
   ("r5".toList, .low 5), ("r6".toList, .low 6), ("r7".toList, .low 7), ("r8".toList, .high 0), ("r9".toList, .high 1),
   ("r10".toList, .high 2), ("r11".toList, .high 3), ("r12".toList, .high 4), ("sp".toList, .sp), ("lr".toList, .lr),
   ("pc".toList, .pc), ("cpsr".toList, .cpsr), ("spsr".toList, .spsr), ("r13".toList, .sp), ("r14".toList, .lr),
   ("r15".toList, .pc)]

/-- Mode names of SETMODE (R58). -/
def modeNames : List (List Char × Mode) :=
  [("usr".toList, .user), ("fiq".toList, .fiq), ("irq".toList, .irq), ("svc".toList, .supervisor), ("abt".toList, .abort),
   ("und".toList, .undefined), ("sys".toList, .system)]

/-- State names of SETSTATE (R58). -/
def stateNames : List (List Char × InstrState) := [("arm".toList, .arm), ("thumb".toList, .thumb)]

/-- The value under a name. -/
def lookupName {α : Type} (table : List (List Char × α)) (name : List Char) : Option α :=
  (table.find? (fun e => e.1 == name)).map Prod.snd

/-- The token read so far (reversed), if any, before the tokens after it. -/
def flushToken (cur : List Char) (rest : List (List Char)) : List (List Char) :=
  if cur.isEmpty then rest else cur.reverse :: rest

/-- Tokens: parted by blanks; a comma or a semicolon is a token by itself. -/
def tokenize : List Char → List Char → List (List Char)
  | [], cur => flushToken cur []
  | c :: cs, cur =>
    if c = ' ' ∨ c = '\t' then flushToken cur (tokenize cs [])
    else if c = ',' ∨ c = ';' then flushToken cur ([c] :: tokenize cs [])
    else tokenize cs (c :: cur)

/-- A digit's value, in lower case. -/
def digitValue (c : Char) : Option Nat :=
  if '0' ≤ c ∧ c ≤ '9' then some (c.toNat - '0'.toNat)
  else if 'a' ≤ c ∧ c ≤ 'f' then some (c.toNat - 'a'.toNat + 10)
  else none

/-- A number's value in a base, most significant digit first. -/
def numeral (base : Nat) : List Char → Nat → Option Nat
  | [], acc => some acc
  | c :: cs, acc =>
    match digitValue c with
    | some d => if d < base then numeral base cs (acc * base + d) else none
    | none => none

/-- `<value>`: a 32-bit number, `0x` hexadecimal or decimal (R57). -/
def parseValue (t : List Char) : Option Word :=
  let n := match t with
    | [] => none
    | '0' :: 'x' :: [] => none
    | '0' :: 'x' :: ds => numeral 16 ds 0
    | ds => numeral 10 ds 0
  match n with
  | some n => if n < 2 ^ 32 then some (BitVec.ofNat 32 n) else none
  | none => none

/-- The line of one token: NOP, MODE, STATE. -/
def assembleBare (op : List Char) : Option AsmLine :=
  if op = "nop".toList then some (.command (.nop 0#5) 0#32)
  else if op = "mode".toList then some (.command (.mode 0#5) 0#32)
  else if op = "state".toList then some (.command (.state 0#5) 0#32)
  else none

/-- The line of two tokens: RD, SETMODE, SETSTATE, `; reset`. -/
def assembleUnary (op arg : List Char) : Option AsmLine :=
  if op = "rd".toList then (lookupName regNames arg).map (fun r => .command (rdInstr r) 0#32)
  else if op = "setmode".toList then (lookupName modeNames arg).map .setMode
  else if op = "setstate".toList then (lookupName stateNames arg).map .setState
  else if op = [';'] ∧ arg = "reset".toList then some .reset
  else none

/-- `WR <reg>, <value>`. -/
def assembleWrite (op reg comma value : List Char) : Option AsmLine :=
  if op = "wr".toList ∧ comma = [','] then
    match lookupName regNames reg, parseValue value with
    | some r, some v => some (.command (wrInstr r) v)
    | _, _ => none
  else none

/-- One line (R57, R58), case-insensitive; none where it is no line of the syntax. -/
def assemble (line : List Char) : Option AsmLine :=
  match tokenize (line.map Char.toLower) [] with
  | [op] => assembleBare op
  | [op, arg] => assembleUnary op arg
  | [op, reg, comma, value] => assembleWrite op reg comma value
  | _ => none

/-- The port inputs of a line, where `v` is what the RD of a pseudo-instruction gives its issuer (R58). -/
def AsmLine.inputs (v : Word) : AsmLine → List PortIn
  | .command i d => [.ofInstr i d]
  | .setMode m => setModeScript m v
  | .setState st => setStateScript st v
  | .reset => [.reset]

/-- One hexadecimal digit, in capitals as the spec writes them. -/
def hexDigit (n : Nat) : Char := if n < 10 then Char.ofNat (48 + n) else Char.ofNat (55 + n)

/-- The low `k` hexadecimal digits of `n`, most significant first. -/
def hexDigits : Nat → Nat → List Char
  | 0, _ => []
  | k + 1, n => hexDigits k (n / 16) ++ [hexDigit (n % 16)]

/-- `0x` and `k` digits. -/
def hexNumber (k n : Nat) : List Char := '0' :: 'x' :: hexDigits k n

/-- The reference's own name. -/
def regName (r : RegRef) : List Char :=
  match regNames.find? (fun e => e.2 == r) with
  | some e => e.1
  | none => []

/-- A command in the syntax of R57; empty for a reserved word, which has none. -/
def commandText (i : Instr) (d : Word) : List Char :=
  match i.readRef?, i.writeRef?, i with
  | some r, _, _ => "RD ".toList ++ regName r
  | none, some r, _ => "WR ".toList ++ regName r ++ ", ".toList ++ hexNumber 8 d.toNat
  | none, none, .nop _ => "NOP".toList
  | none, none, .mode _ => "MODE".toList
  | none, none, .state _ => "STATE".toList
  | none, none, _ => []

/-- A listing line (R57): the word in hex, for WR the data, then the syntax. -/
def listing (i : Instr) (d : Word) : List Char :=
  hexNumber 2 (encode i).toNat
    ++ (if i.writeRef?.isSome then ' ' :: hexNumber 8 d.toNat else [])
    ++ "  ".toList ++ commandText i d

end Sys2Proof.Machine
end

