-- ==== Sys2Proof/Safety.lean ====
section
/-! DEFINITION. What the statements mean by a legal mode, a reachable slot, a harmless input and a run without a stop. -/

namespace Sys2Proof.Machine

/-- The mode field of `w` is one of the seven legal patterns (40_decoder.md R59). -/
def legalMode (w : Word) : Bool := (decodeMode w).isSome

/-- The live status word `w` selects the slot: some reference resolves to it (10_state.md R26, R28). -/
def Selects (w : Word) (sl : Slot) : Prop := ∃ ref, resolve ref w = .ok sl

/-- RD or WR of r8..r12. -/
def touchesHigh (i : Instr) : Bool :=
  match i with
  | .rdHi _ | .wrHi _ => true
  | .nop _ | .rdLo _ | .rdSp | .rdLr | .rdPc | .rdCpsr | .rdSpsr | .wrLo _ | .wrSp | .wrLr | .wrPc | .wrCpsr | .wrSpsr => false
  | .mode _ | .state _ | .reservedCmd5 _ | .reservedCmd67 _ | .reservedRd _ | .reservedWr _ => false

/-- RD or WR of spsr. -/
def touchesSpsr (i : Instr) : Bool :=
  match i with
  | .rdSpsr | .wrSpsr => true
  | .nop _ | .rdLo _ | .rdHi _ | .rdSp | .rdLr | .rdPc | .rdCpsr | .wrLo _ | .wrHi _ | .wrSp | .wrLr | .wrPc | .wrCpsr => false
  | .mode _ | .state _ | .reservedCmd5 _ | .reservedCmd67 _ | .reservedRd _ | .reservedWr _ => false

/-- The commands that need the mode once the T bit has not turned them away (60_exceptions.md R86): MODE, STATE, RD and WR of sp,
lr, spsr and of r8..r12. -/
def needsMode (i : Instr) : Bool :=
  match i with
  | .mode _ | .state _ | .rdSp | .rdLr | .rdSpsr | .wrSp | .wrLr | .wrSpsr | .rdHi _ | .wrHi _ => true
  | .nop _ | .rdLo _ | .rdPc | .rdCpsr | .wrLo _ | .wrPc | .wrCpsr => false
  | .reservedCmd5 _ | .reservedCmd67 _ | .reservedRd _ | .reservedWr _ => false

/-- Two register files agree on every slot that the status word `w` selects. -/
def AgreeOnSelected (w : Word) (a b : RegFile) : Prop := ∀ sl, Selects w sl → a.read sl = b.read sl

/-- An input that can neither be refused nor leave an illegal mode behind: a reset, no command, or a command that is not
reserved and, if it writes CPSR, writes a legal mode. -/
def PortIn.harmless (p : PortIn) : Bool :=
  p.rst || !p.reqValid || (!(decode p.reqWord).isReserved && (decode p.reqWord != .wrCpsr || legalMode p.reqWdata))

/-- An input that leaves no illegal mode behind: not a WR cpsr of an illegal mode field. -/
def PortIn.keepsLegalMode (p : PortIn) : Bool :=
  p.rst || !p.reqValid || decode p.reqWord != .wrCpsr || legalMode p.reqWdata

/-- The live mode is legal and every input still to come is harmless. -/
def HarmlessSession (s : State) : Prop :=
  legalMode s.regs.cpsr = true ∧ ∀ p ∈ s.port :: s.later, p.harmless = true

/-- The response a run can show (60_exceptions.md R86 to R88, 30_encoding.md R52): OK, or INVALID_ACCESS with data 0. -/
def RespShown (s : State) : Prop :=
  s.resp.code = .ok ∨ s.resp = ⟨.invalidAccess, 0#32⟩

/-- The run ends well: `k` steps without a fault or a refusal. A faulted run has no final state (60_exceptions.md R86). -/
def RunsWell (k : Nat) (s : State) : Prop := ∃ t, Host.Core.run Sys2Proof.core k s = .next t

end Sys2Proof.Machine
end

