-- ==== Sys2Proof/Certificates/Slice0/Obligations.lean ====
section
/-! DEFINITION. The statements for the provers. `(D<n>)` names a decision of spec/92_eei_decisions.md a statement rests on; a statement that
rests on one, or on a rule the spec marks as derived, has basis 'derived' in OBLIGATIONS.json. -/

open Sys2Proof Sys2Proof.Machine

/-! ## Encoding (30_encoding.md; the encoding is decisions D8 to D10, D19) -/

/-- Decoding the word of a well-formed command gives it back, with every operand and every ignored bit (R46 to R49, R55; D8 to D10). -/
def Obligations.EncodeThenDecodeGivesTheCommand : Prop :=
  ∀ i : Instr, i.wellFormed = true → decode (encode i) = i

/-- Encoding what a word decodes to gives the word back, and every word decodes to a well-formed command or reserved row (R55, R56; D8 to D10). -/
def Obligations.DecodeThenEncodeGivesTheWord : Prop :=
  ∀ w : CmdWord, encode (decode w) = w ∧ (decode w).wellFormed = true

/-- The reserved words are 0xA0..0xFF, 0x32..0x3F and 0x52..0x5F, and no other (R55; D10). -/
def Obligations.ReservedWordsAreExactly : Prop :=
  ∀ w : CmdWord, (decode w).isReserved = true ↔
    0xA0 ≤ w.toNat ∨ (0x32 ≤ w.toNat ∧ w.toNat ≤ 0x3F) ∨ (0x52 ≤ w.toNat ∧ w.toNat ≤ 0x5F)

/-- A word of each family decodes as the word map of 30_encoding.md says (D8, D9). -/
def Obligations.SampleWordsDecode : Prop :=
  decode 0x00#8 = .nop 0 ∧ decode 0x1F#8 = .nop 31 ∧ decode 0x23#8 = .rdLo 3 ∧ decode 0x2C#8 = .rdHi 4 ∧
  decode 0x2D#8 = .rdSp ∧ decode 0x2E#8 = .rdLr ∧ decode 0x2F#8 = .rdPc ∧ decode 0x30#8 = .rdCpsr ∧ decode 0x31#8 = .rdSpsr ∧
  decode 0x47#8 = .wrLo 7 ∧ decode 0x48#8 = .wrHi 0 ∧ decode 0x4D#8 = .wrSp ∧ decode 0x4E#8 = .wrLr ∧ decode 0x4F#8 = .wrPc ∧
  decode 0x50#8 = .wrCpsr ∧ decode 0x51#8 = .wrSpsr ∧ decode 0x60#8 = .mode 0 ∧ decode 0x9F#8 = .state 31 ∧
  decode 0xA0#8 = .reservedCmd5 0 ∧ decode 0xFF#8 = .reservedCmd67 63 ∧ decode 0x32#8 = .reservedRd 18 ∧ decode 0x5F#8 = .reservedWr 31

/-! ## The step (R10, R44, R101; D7, D20; log 2) -/

/-- A word of the table placed on the port is decoded and is what the very next step performs (log 11, log 12: the model's choice). -/
def Obligations.PlacedWordRunsNext : Prop :=
  ∀ (s : State) (w : CmdWord),
    decodeTableWord 8 w.toNat = some (decode w) ∧
    (s.withFetchWord 8 w.toNat).regs = s.regs ∧ (s.withFetchWord 8 w.toNat).later = s.later ∧
    step (s.withFetchWord 8 w.toNat) = thenAdvance (exec (decode w) (s.withFetchWord 8 w.toNat))

/-- A presented command that decodes to `i` is performed as `exec i`, and then the pins of the next cycle stand on the port; a fault or a
refusal of the command is the step's (R44; D7). -/
def Obligations.StepRunsTheDecodedCommand : Prop :=
  ∀ (s : State) (i : Instr), s.port.rst = false → s.port.reqValid = true → decode s.port.reqWord = i →
    (∀ t, exec i s = .next t → step s = .next { t with port := s.later.headD .idle, later := s.later.tail }) ∧
    (∀ f, exec i s = .fault f → step s = .fault f) ∧
    (∀ r, exec i s = .refused r → step s = .refused r)

/-- A cycle with no command and no reset changes no slot and gives response outputs 0 (R44; D7). -/
def Obligations.IdleCycleChangesNothing : Prop :=
  ∀ s : State, s.port.rst = false → s.port.reqValid = false →
    step s = .next { regs := s.regs, port := s.later.headD .idle, later := s.later.tail, resp := ⟨.ok, 0⟩ }

/-- A cycle with `rst` = 1 loads every slot with its reset value, whatever the other pins hold: the presented command is not performed and
the response outputs are 0 (R101; D20). The values 0xD3 and 0 are a choice of the spec where its source shows none (10_state.md section 3; D4, D5, log 6). -/
def Obligations.ResetCycleLoadsEverySlot : Prop :=
  ∀ s : State, s.port.rst = true →
    ∃ t, step s = .next t ∧ t.resp = ⟨.ok, 0⟩ ∧ t.port = s.later.headD .idle ∧ t.later = s.later.tail ∧
      t.regs.read .cpsr = 0x000000D3 ∧ ∀ sl, sl ≠ .cpsr → t.regs.read sl = 0

/-! ## The mode/state decoder (40_decoder.md) -/

/-- `decode_mode` on the seven legal patterns (R59; the patterns are decision D2, log 7). -/
def Obligations.LegalPatternsDecode : Prop :=
  ∀ w : Word,
    (decodeMode w = some .user ↔ w.extractLsb' 0 5 = 0b10000#5) ∧ (decodeMode w = some .fiq ↔ w.extractLsb' 0 5 = 0b10001#5) ∧
    (decodeMode w = some .irq ↔ w.extractLsb' 0 5 = 0b10010#5) ∧ (decodeMode w = some .supervisor ↔ w.extractLsb' 0 5 = 0b10011#5) ∧
    (decodeMode w = some .abort ↔ w.extractLsb' 0 5 = 0b10111#5) ∧ (decodeMode w = some .undefined ↔ w.extractLsb' 0 5 = 0b11011#5) ∧
    (decodeMode w = some .system ↔ w.extractLsb' 0 5 = 0b11111#5)

/-- Each of the 25 other values of the mode field decodes to no mode (R60; D2), and MODE and STATE then fault. -/
def Obligations.IllegalPatternsDecodeToNoMode : Prop :=
  (∀ w : Word, decodeMode w = none ↔ w.extractLsb' 0 5 ∈
    ([0x00, 0x01, 0x02, 0x03, 0x04, 0x05, 0x06, 0x07, 0x08, 0x09, 0x0A, 0x0B, 0x0C, 0x0D, 0x0E, 0x0F,
      0x14, 0x15, 0x16, 0x18, 0x19, 0x1A, 0x1C, 0x1D, 0x1E] : List (BitVec 5))) ∧
  (∀ (s : State) (ign : BitVec 5), decodeMode s.regs.cpsr = none →
    exec (.mode ign) s = .fault .invalidMachineState ∧ exec (.state ign) s = .fault .invalidMachineState)

/-- `decode_state` is ARM for bit 5 = 0 and Thumb for bit 5 = 1, and looks at no other bit (R61; the bit's place and sense are
decisions D1 and D3, log 7). -/
def Obligations.StateBitDecodes : Prop :=
  ∀ w : Word, (w.getLsbD 5 = false → decodeState w = .arm) ∧ (w.getLsbD 5 = true → decodeState w = .thumb) ∧
    ∀ w' : Word, w'.getLsbD 5 = w.getLsbD 5 → decodeState w' = decodeState w

/-- `bank_index` is the fixed table (R62), with every result below 6. -/
def Obligations.BankIndexTable : Prop :=
  (bankIndex .user = 0 ∧ bankIndex .system = 0 ∧ bankIndex .fiq = 1 ∧ bankIndex .supervisor = 2 ∧ bankIndex .abort = 3 ∧
    bankIndex .irq = 4 ∧ bankIndex .undefined = 5) ∧ ∀ m, (bankIndex m).val < 6

/-- The field projections, valid whatever the mode field holds, and the ports that carry them (R63; the places of I, F, T and M are decision
D1, log 7). -/
def Obligations.FieldProjections : Prop :=
  ∀ s : State,
    s.outputs.flagN = s.regs.cpsr.getLsbD 31 ∧ s.outputs.flagZ = s.regs.cpsr.getLsbD 30 ∧ s.outputs.flagC = s.regs.cpsr.getLsbD 29 ∧
    s.outputs.flagV = s.regs.cpsr.getLsbD 28 ∧ s.outputs.irqDisable = s.regs.cpsr.getLsbD 7 ∧
    s.outputs.fiqDisable = s.regs.cpsr.getLsbD 6 ∧ s.outputs.stateT = s.regs.cpsr.extractLsb' 5 1 ∧
    s.outputs.modeBits = s.regs.cpsr.extractLsb' 0 5

/-- `mode_valid`, `mode_code` and `bank_idx` on the output ports (R45, R53; D7, D11): the mode's code and bank, or 0b111. -/
def Obligations.DecoderPorts : Prop :=
  ∀ s : State,
    (∀ m, decodeMode s.regs.cpsr = some m →
      s.outputs.modeValid = true ∧ s.outputs.modeCode = modeCode m ∧ s.outputs.bankIdx.toNat = (bankIndex m).val) ∧
    (decodeMode s.regs.cpsr = none → s.outputs.modeValid = false ∧ s.outputs.modeCode = 0b111#3 ∧ s.outputs.bankIdx = 0b111#3) ∧
    [Mode.user, .fiq, .irq, .supervisor, .abort, .undefined, .system].map modeCode = [0, 1, 2, 3, 4, 5, 6]

/-! ## The slots (10_state.md) -/

/-- The register file holds exactly 37 slots: 8 LO, 5 HI_USR, 5 HI_FIQ, PC, 6 SP, 6 LR, 5 SPSR and CPSR, each one a word that is read back as
written; and they are all of it (R19). -/
def Obligations.ExactlyThirtySevenSlots : Prop :=
  (∃ l : List Slot, l.length = 37 ∧ l.Nodup ∧ ∀ sl, sl ∈ l) ∧
  (∀ a b : RegFile, (∀ sl, a.read sl = b.read sl) → a = b) ∧
  (∀ (r : RegFile) (sl sl' : Slot) (v : Word), (r.write sl v).read sl' = if sl' = sl then v else r.read sl')

/-- There is no SPSR of bank 0: an SPSR reference resolves to the slot of a bank from 1 to 5, the live mode's, and in User and System mode it
is an invalid access (R22). -/
def Obligations.NoSpsrForBankZero : Prop :=
  (∀ (w : Word) (sl : Slot), resolve .spsr w = .ok sl →
    ∃ m j, decodeMode w = some m ∧ sl = .spsr j ∧ (bankIndex m).val = j.val + 1) ∧
  (∀ (w : Word) (m : Mode), decodeMode w = some m → m = .user ∨ m = .system →
    bankIndex m = 0 ∧ resolve .spsr w = .error (.invalidAccess .spsr))

/-! ## The commands: the whole next state, or the stop -/

/-- NOP responds OK with data 0 in every state and changes nothing else (R68; D8). -/
def Obligations.NopCompletes : Prop :=
  ∀ (s : State) (ign : BitVec 5), exec (.nop ign) s = .next { s with resp := ⟨.ok, 0⟩ }

/-- RD r0..r7 responds OK with LO[n], and RD pc with the stored word exactly, in every mode and state (R69, R73) and, by the spec's own choice to decode
the mode lazily (R67; D6, log 8), with an illegal mode field. -/
def Obligations.ReadLowAndPc : Prop :=
  ∀ s : State,
    (∀ n : Fin 8, exec (.rdLo n) s = .next { s with resp := ⟨.ok, s.regs.lo[n]⟩ }) ∧
    exec .rdPc s = .next { s with resp := ⟨.ok, s.regs.pc⟩ }

/-- RD cpsr responds OK with all 32 bits of CPSR, in every state (R74; D6, log 8). -/
def Obligations.ReadCpsr : Prop :=
  ∀ s : State, exec .rdCpsr s = .next { s with resp := ⟨.ok, s.regs.cpsr⟩ }

/-- RD r8..r12 (R70): INVALID_ACCESS in Thumb state whatever the mode field, the T bit being tested before the mode by the spec's own choice (R67, R90; D6, log 8); in
ARM state a fault with an illegal mode field, HI_FIQ in FIQ mode, and
the one shared HI_USR in every other mode. -/
def Obligations.ReadHigh : Prop :=
  ∀ (s : State) (n : Fin 5),
    (decodeState s.regs.cpsr = .thumb → exec (.rdHi n) s = .next { s with resp := ⟨.invalidAccess, 0⟩ }) ∧
    (decodeState s.regs.cpsr = .arm →
      (decodeMode s.regs.cpsr = none → exec (.rdHi n) s = .fault .invalidMachineState) ∧
      (decodeMode s.regs.cpsr = some .fiq → exec (.rdHi n) s = .next { s with resp := ⟨.ok, s.regs.hiFiq[n]⟩ }) ∧
      (∀ m, m ≠ .fiq → decodeMode s.regs.cpsr = some m → exec (.rdHi n) s = .next { s with resp := ⟨.ok, s.regs.hiUsr[n]⟩ }))

/-- RD sp and RD lr (R71, R72): the slot of the live mode's bank, in both states; a fault with an illegal mode field. -/
def Obligations.ReadSpAndLr : Prop :=
  ∀ s : State,
    (∀ m, decodeMode s.regs.cpsr = some m →
      exec .rdSp s = .next { s with resp := ⟨.ok, s.regs.sp[bankIndex m]⟩ } ∧
      exec .rdLr s = .next { s with resp := ⟨.ok, s.regs.lr[bankIndex m]⟩ }) ∧
    (decodeMode s.regs.cpsr = none →
      exec .rdSp s = .fault .invalidMachineState ∧ exec .rdLr s = .fault .invalidMachineState)

/-- RD spsr (R75): SPSR[bank_index(m)] (the model's `spsr[j]` is SPSR[j+1]), INVALID_ACCESS in User and System mode, a fault with an illegal mode
field. -/
def Obligations.ReadSpsr : Prop :=
  ∀ s : State,
    (∀ (m : Mode) (j : Fin 5), decodeMode s.regs.cpsr = some m → (bankIndex m).val = j.val + 1 →
      exec .rdSpsr s = .next { s with resp := ⟨.ok, s.regs.spsr[j]⟩ }) ∧
    (∀ m, decodeMode s.regs.cpsr = some m → m = .user ∨ m = .system →
      exec .rdSpsr s = .next { s with resp := ⟨.invalidAccess, 0⟩ }) ∧
    (decodeMode s.regs.cpsr = none → exec .rdSpsr s = .fault .invalidMachineState)

/-- WR r0..r7: LO[n] takes the value, r0 too; WR pc: PC takes it verbatim. Both in every mode and state and, by the spec's own choice to decode the mode
lazily (R67; D6, log 8), with an illegal mode field; nothing else changes, the T bit included (R76, R80). -/
def Obligations.WriteLowAndPc : Prop :=
  ∀ s : State,
    (∀ n : Fin 8,
      exec (.wrLo n) s = .next { s with regs := { s.regs with lo := s.regs.lo.set n s.port.reqWdata }, resp := ⟨.ok, 0⟩ }) ∧
    exec .wrPc s = .next { s with regs := { s.regs with pc := s.port.reqWdata }, resp := ⟨.ok, 0⟩ }

/-- WR cpsr: all 32 bits of CPSR are replaced in every state and every mode, unchecked, and no other slot changes (R81; D18 for the missing
privilege check, D6, log 8, for an illegal mode field). -/
def Obligations.WriteCpsr : Prop :=
  ∀ s : State, exec .wrCpsr s = .next { s with regs := { s.regs with cpsr := s.port.reqWdata }, resp := ⟨.ok, 0⟩ }

/-- WR r8..r12 (R77): errors as RD r8..r12, the T bit tested before the mode by the spec's own choice (R67, R90; D6, log 8), with nothing written; else HI_FIQ in FIQ mode and HI_USR in every other. -/
def Obligations.WriteHigh : Prop :=
  ∀ (s : State) (n : Fin 5),
    (decodeState s.regs.cpsr = .thumb → exec (.wrHi n) s = .next { s with resp := ⟨.invalidAccess, 0⟩ }) ∧
    (decodeState s.regs.cpsr = .arm →
      (decodeMode s.regs.cpsr = none → exec (.wrHi n) s = .fault .invalidMachineState) ∧
      (decodeMode s.regs.cpsr = some .fiq → exec (.wrHi n) s =
        .next { s with regs := { s.regs with hiFiq := s.regs.hiFiq.set n s.port.reqWdata }, resp := ⟨.ok, 0⟩ }) ∧
      (∀ m, m ≠ .fiq → decodeMode s.regs.cpsr = some m → exec (.wrHi n) s =
        .next { s with regs := { s.regs with hiUsr := s.regs.hiUsr.set n s.port.reqWdata }, resp := ⟨.ok, 0⟩ }))

/-- WR sp and WR lr (R78, R79): the slot of the live mode's bank takes the value verbatim; a fault with an illegal mode field. -/
def Obligations.WriteSpAndLr : Prop :=
  ∀ s : State,
    (∀ m, decodeMode s.regs.cpsr = some m →
      exec .wrSp s = .next { s with regs := { s.regs with sp := s.regs.sp.set (bankIndex m) s.port.reqWdata }, resp := ⟨.ok, 0⟩ } ∧
      exec .wrLr s = .next { s with regs := { s.regs with lr := s.regs.lr.set (bankIndex m) s.port.reqWdata }, resp := ⟨.ok, 0⟩ }) ∧
    (decodeMode s.regs.cpsr = none →
      exec .wrSp s = .fault .invalidMachineState ∧ exec .wrLr s = .fault .invalidMachineState)

/-- WR spsr (R82): SPSR[bank_index(m)] takes the value, unvalidated; INVALID_ACCESS with nothing written in User and System mode; a fault with an
illegal mode field. -/
def Obligations.WriteSpsr : Prop :=
  ∀ s : State,
    (∀ (m : Mode) (j : Fin 5), decodeMode s.regs.cpsr = some m → (bankIndex m).val = j.val + 1 →
      exec .wrSpsr s = .next { s with regs := { s.regs with spsr := s.regs.spsr.set j s.port.reqWdata }, resp := ⟨.ok, 0⟩ }) ∧
    (∀ m, decodeMode s.regs.cpsr = some m → m = .user ∨ m = .system →
      exec .wrSpsr s = .next { s with resp := ⟨.invalidAccess, 0⟩ }) ∧
    (decodeMode s.regs.cpsr = none → exec .wrSpsr s = .fault .invalidMachineState)

/-- MODE (R65): the mode's code, zero-extended, in both states; a fault with an illegal mode field. -/
def Obligations.ModeQuery : Prop :=
  ∀ (s : State) (ign : BitVec 5),
    (∀ m, decodeMode s.regs.cpsr = some m → exec (.mode ign) s = .next { s with resp := ⟨.ok, (modeCode m).setWidth 32⟩ }) ∧
    (decodeMode s.regs.cpsr = none → exec (.mode ign) s = .fault .invalidMachineState)

/-- STATE (R66): 0 for ARM and 1 for Thumb, under a legal mode; a fault with an illegal mode field. -/
def Obligations.StateQuery : Prop :=
  ∀ (s : State) (ign : BitVec 5),
    (∀ m, decodeMode s.regs.cpsr = some m →
      exec (.state ign) s = .next { s with resp := ⟨.ok, if decodeState s.regs.cpsr = .thumb then 1 else 0⟩ }) ∧
    (decodeMode s.regs.cpsr = none → exec (.state ign) s = .fault .invalidMachineState)

/-- The reserved rows are refused with their own word, in every state (R55, R88; D10, log 5). -/
def Obligations.ReservedWordsAreRefused : Prop :=
  ∀ s : State,
    (∀ ref : BitVec 5, exec (.reservedCmd5 ref) s = .refused (.reservedEncoding (0b101#3 ++ ref))) ∧
    (∀ bits : BitVec 6, exec (.reservedCmd67 bits) s = .refused (.reservedEncoding (0b11#2 ++ bits))) ∧
    (∀ ref : BitVec 5, exec (.reservedRd ref) s = .refused (.reservedEncoding (0b001#3 ++ ref))) ∧
    (∀ ref : BitVec 5, exec (.reservedWr ref) s = .refused (.reservedEncoding (0b010#3 ++ ref)))

/-! ## Frames and errors -/

/-- Side effects (R38). A command that is no write changes no slot, and its response is the same wherever the slots are the same, so as long as no write
intervenes. A write changes exactly the slot its reference resolves to under the CPSR before the write, and none where it resolves to none. Any command
performed again at once, with the same operand, answers the state it answered. No command moves the pins. -/
def Obligations.CommandsHaveNoOtherSideEffect : Prop :=
  (∀ (i : Instr) (s t : State), i.writeRef? = none → exec i s = .next t → t.regs = s.regs ∧
    ∀ s' : State, s'.regs = s.regs → ∃ t', exec i s' = .next t' ∧ t'.resp = t.resp) ∧
  (∀ (i : Instr) (ref : RegRef) (s t : State), i.writeRef? = some ref → exec i s = .next t →
    (∀ sl, resolve ref s.regs.cpsr = .ok sl →
      t.regs.read sl = s.port.reqWdata ∧ ∀ sl', sl' ≠ sl → t.regs.read sl' = s.regs.read sl') ∧
    (∀ e, resolve ref s.regs.cpsr = .error e → t.regs = s.regs)) ∧
  (∀ (i : Instr) (s t : State), exec i s = .next t → exec i t = .next t ∧ t.port = s.port ∧ t.later = s.later)

/-- A value written through a reference is read back through it verbatim by the next command: no slot is hard-wired, aligned or masked, and every
one is written whole (R27 and R36; the spec derives the first and decides the second, D15). -/
def Obligations.WrittenValueIsReadBack : Prop :=
  ∀ (ref : RegRef) (s t : State), exec (wrInstr ref) s = .next t → t.resp.code = .ok →
    exec (rdInstr ref) t = .next { t with resp := ⟨.ok, s.port.reqWdata⟩ }

/-- A cycle of the block whose response is not OK writes no slot and gives data 0 (R83, R52; D11, D12). -/
def Obligations.FailedCommandsWriteNothing : Prop :=
  ∀ s : State, s.respOut.code ≠ .ok → (blockStep s).regs = s.regs ∧ s.respOut.rdata = 0

/-- The response code of a presented command: the first check that applies, in the order of R90 (D6, D10, log 8; the place of the T bit is D1, log 7). -/
def Obligations.OneErrorPerStepInOrder : Prop :=
  ∀ s : State, s.port.rst = false → s.port.reqValid = true →
    s.respOut.code =
      (if s.command.isReserved = true then .reservedEncoding
      else if touchesHigh s.command = true ∧ s.regs.cpsr.getLsbD 5 = true then .invalidAccess
      else if needsMode s.command = true ∧ decodeMode s.regs.cpsr = none then .invalidMachineState
      else if touchesSpsr s.command = true ∧ (decodeMode s.regs.cpsr = some .user ∨ decodeMode s.regs.cpsr = some .system) then
        .invalidAccess
      else .ok)

/-- The block never halts (R89): where a run goes on, its state is the block's; where a run faults, the block responds INVALID_MACHINE_STATE with data
0 (R86), where a word is refused, RESERVED_ENCODING with data 0 (R88), keeps every slot, and takes the next cycle's command (log 15: DEDUCED). -/
def Obligations.BlockGoesOnWhereARunStops : Prop :=
  ∀ s : State,
    (∀ t, step s = .next t → blockStep s = t) ∧
    (∀ f, step s = .fault f → blockStep s =
      { regs := s.regs, port := s.later.headD .idle, later := s.later.tail, resp := ⟨.invalidMachineState, 0⟩ }) ∧
    (∀ r, step s = .refused r → blockStep s =
      { regs := s.regs, port := s.later.headD .idle, later := s.later.tail, resp := ⟨.reservedEncoding, 0⟩ })

/-- No command other than a write changes a slot, and no slot changes spontaneously (R31). -/
def Obligations.SlotsChangeOnlyByWriteOrReset : Prop :=
  ∀ (s t : State) (sl : Slot), step s = .next t → t.regs.read sl ≠ s.regs.read sl →
    s.port.rst = true ∨ (s.port.reqValid = true ∧ ∃ ref, s.command = wrInstr ref ∧ resolve ref s.regs.cpsr = .ok sl)

/-- PC changes only by a WR pc and by reset (R23; D15). -/
def Obligations.PcChangesOnlyByWritePcOrReset : Prop :=
  ∀ s t : State, step s = .next t → t.regs.pc ≠ s.regs.pc →
    s.port.rst = true ∨ (s.port.reqValid = true ∧ s.command = .wrPc ∧ t.regs.pc = s.port.reqWdata)

/-- The mode, the instruction state, and with them every bit of CPSR, change only by a WR cpsr, to what its value says, and by reset, to Supervisor and
ARM (R98, which the spec derives). -/
def Obligations.ModeChangesOnlyByWriteCpsrOrReset : Prop :=
  ∀ s t : State, step s = .next t → t.regs.cpsr ≠ s.regs.cpsr →
    (s.port.rst = true ∧ decodeMode t.regs.cpsr = some .supervisor ∧ decodeState t.regs.cpsr = .arm) ∨
    (s.port.rst = false ∧ s.port.reqValid = true ∧ s.command = .wrCpsr ∧ t.regs.cpsr = s.port.reqWdata)

/-- The step does not read the response outputs: no error is remembered (R25; D13; `resp` is the model's own field, log 3). -/
def Obligations.NoErrorIsRemembered : Prop :=
  ∀ (s : State) (r : Response), step { s with resp := r } = step s

/-- A write of CPSR governs the very next command (R40, R105): it changes CPSR alone, and the read or write after it, with no command between, resolves under
the new value. -/
def Obligations.CpsrWriteGovernsTheNextCommand : Prop :=
  ∀ (s : State) (v : Word) (p : PortIn) (l : List PortIn),
    ∃ t, step (s.withScript (.wr .cpsr v :: p :: l)) = .next t ∧ t.regs = { s.regs with cpsr := v } ∧ t.port = p ∧
      (∀ ref, p = .rd ref →
        (∀ sl, resolve ref v = .ok sl → ∃ u, step t = .next u ∧ u.regs = t.regs ∧ u.resp = ⟨.ok, t.regs.read sl⟩) ∧
        (∀ x, resolve ref v = .error (.invalidAccess x) → ∃ u, step t = .next u ∧ u.regs = t.regs ∧ u.resp = ⟨.invalidAccess, 0⟩) ∧
        (resolve ref v = .error .invalidMachineState → step t = .fault .invalidMachineState)) ∧
      (∀ ref d, p = .wr ref d →
        (∀ sl, resolve ref v = .ok sl → ∃ u, step t = .next u ∧ u.regs.read sl = d ∧
          (∀ sl', sl' ≠ sl → u.regs.read sl' = t.regs.read sl') ∧ u.resp = ⟨.ok, 0⟩) ∧
        (∀ x, resolve ref v = .error (.invalidAccess x) → ∃ u, step t = .next u ∧ u.regs = t.regs ∧ u.resp = ⟨.invalidAccess, 0⟩) ∧
        (resolve ref v = .error .invalidMachineState → step t = .fault .invalidMachineState))

/-! ## Banking isolation and hidden state (R26; R84, which the spec derives) -/

/-- Hidden state (R26): the slots the live CPSR does not select keep their values and cannot be read. Two states that differ in hidden slots alone
go the same way, with the same response, until CPSR is written or the block is reset. -/
def Obligations.HiddenSlotsKeepAndDoNotShow : Prop :=
  ∀ s s' : State, s'.port = s.port → s'.later = s.later → s'.regs.cpsr = s.regs.cpsr →
    AgreeOnSelected s.regs.cpsr s.regs s'.regs → s.port.rst = false → ¬ (s.port.reqValid = true ∧ s.command = .wrCpsr) →
    (∀ t, step s = .next t → ∃ t', step s' = .next t' ∧ t'.resp = t.resp ∧ t.regs.cpsr = s.regs.cpsr ∧ t'.regs.cpsr = s.regs.cpsr ∧
      AgreeOnSelected s.regs.cpsr t.regs t'.regs ∧
      ∀ sl, ¬ Selects s.regs.cpsr sl → t.regs.read sl = s.regs.read sl ∧ t'.regs.read sl = s'.regs.read sl) ∧
    (∀ f, step s = .fault f → step s' = .fault f) ∧
    (∀ r, step s = .refused r → step s' = .refused r)

/-- SP and LR are isolated between modes (R84): a value written in mode `a` is read in mode `b` exactly where the two share a bank, that is, are equal or
are User and System; else `b`'s own slot is read as it was. -/
def Obligations.StackAndLinkAreIsolated : Prop :=
  ∀ (s : State) (w v : Word) (a b : Mode), decodeMode s.regs.cpsr = some a → decodeMode w = some b →
    (bankIndex a = bankIndex b ↔ a = b ∨ (a = .user ∧ b = .system) ∨ (a = .system ∧ b = .user)) ∧
    (∃ t, Host.Core.run core 3 (s.withScript [.wr .sp v, .wr .cpsr w, .rd .sp]) = .next t ∧
      t.resp = ⟨.ok, if bankIndex a = bankIndex b then v else s.regs.sp[bankIndex b]⟩) ∧
    (∃ t, Host.Core.run core 3 (s.withScript [.wr .lr v, .wr .cpsr w, .rd .lr]) = .next t ∧
      t.resp = ⟨.ok, if bankIndex a = bankIndex b then v else s.regs.lr[bankIndex b]⟩)

/-- High registers are isolated between FIQ and the rest (R84): in ARM state a value written in mode `a` is read in mode `b` exactly where both or neither is
FIQ; else `b`'s own slot is read as it was. -/
def Obligations.HighRegistersAreIsolated : Prop :=
  ∀ (s : State) (n : Fin 5) (w v : Word) (a b : Mode), decodeMode s.regs.cpsr = some a → decodeState s.regs.cpsr = .arm →
    decodeMode w = some b → decodeState w = .arm →
    ∃ t, Host.Core.run core 3 (s.withScript [.wr (.high n) v, .wr .cpsr w, .rd (.high n)]) = .next t ∧
      t.resp = ⟨.ok, if (a = .fiq ↔ b = .fiq) then v else if b = .fiq then s.regs.hiFiq[n] else s.regs.hiUsr[n]⟩

/-- Saved status registers are isolated between the modes that have one (R84). -/
def Obligations.SavedStatusIsIsolated : Prop :=
  ∀ (s : State) (w v : Word) (a b : Mode) (j : Fin 5), decodeMode s.regs.cpsr = some a → a ≠ .user → a ≠ .system →
    decodeMode w = some b → (bankIndex b).val = j.val + 1 →
    ∃ t, Host.Core.run core 3 (s.withScript [.wr .spsr v, .wr .cpsr w, .rd .spsr]) = .next t ∧
      t.resp = ⟨.ok, if a = b then v else s.regs.spsr[j]⟩

/-- r0..r7, PC and CPSR are shared: a value written is read back in every mode and state (R84) and, by the spec's own choice to decode the mode lazily (R67; D6, log 8),
under a status word with an illegal mode field too. -/
def Obligations.UnbankedRegistersAreShared : Prop :=
  ∀ (s : State) (n : Fin 8) (w v : Word),
    (∃ t, Host.Core.run core 3 (s.withScript [.wr (.low n) v, .wr .cpsr w, .rd (.low n)]) = .next t ∧ t.resp = ⟨.ok, v⟩) ∧
    (∃ t, Host.Core.run core 3 (s.withScript [.wr .pc v, .wr .cpsr w, .rd .pc]) = .next t ∧ t.resp = ⟨.ok, v⟩) ∧
    (∃ t, Host.Core.run core 2 (s.withScript [.wr .cpsr w, .rd .cpsr]) = .next t ∧ t.resp = ⟨.ok, w⟩)

/-! ## Invariants -/

/-- A session whose mode is legal and whose inputs are harmless stays so: every step keeps it. -/
def Obligations.HarmlessSessionIsKept : Prop :=
  ∀ s t : State, HarmlessSession s → step s = .next t → HarmlessSession t

/-- A harmless session never stops: `k` steps of it end well, for every `k`. -/
def Obligations.HarmlessSessionNeverStops : Prop :=
  ∀ (k : Nat) (s : State), HarmlessSession s → RunsWell k s

/-- The state after reset is a harmless session. -/
def Obligations.ResetIsHarmless : Prop := HarmlessSession State.reset

/-- What a run shows on the response port is OK, or INVALID_ACCESS with data 0: every step keeps it (R86 to R88 and R52, as a model treats them, log 4 and
log 5). -/
def Obligations.ShownResponsesAreKept : Prop :=
  ∀ s t : State, RespShown s → step s = .next t → RespShown t

/-- No step reports INVALID_MACHINE_STATE until CPSR is written with an illegal mode field (R102, which derives it): from any state with a legal mode, so from
reset, whatever the first `k` inputs are, reserved words included. -/
def Obligations.NoFaultUntilAnIllegalModeIsWritten : Prop :=
  ∀ (k : Nat) (s : State) (l : List PortIn), legalMode s.regs.cpsr = true → (∀ p ∈ l.take k, p.keepsLegalMode = true) →
    ∀ f, Host.Core.run core k (s.withScript l) ≠ .fault f

/-! ## Reset (R29, R30, R102; D4, D5, log 6) -/

/-- Right after reset the mode is Supervisor, the state ARM, IRQ and FIQ disabled, and the first MODE responds OK with 3, the first STATE OK with 0 (R102; the
fields' places and the pattern are D1 to D3, log 7, the codes D11). -/
def Obligations.ResetIsSupervisorArmMasked : Prop :=
  decodeMode State.reset.regs.cpsr = some .supervisor ∧ decodeState State.reset.regs.cpsr = .arm ∧
  State.reset.outputs.irqDisable = true ∧ State.reset.outputs.fiqDisable = true ∧
  (∀ ign, exec (.mode ign) State.reset = .next { State.reset with resp := ⟨.ok, 3⟩ }) ∧
  (∀ ign, exec (.state ign) State.reset = .next { State.reset with resp := ⟨.ok, 0⟩ })

/-- After reset CPSR is 0xD3 and every other slot is 0 (R29, R30; the spec's decisions D4 and D5 for what the source does not show, log 6). -/
def Obligations.ResetSlots : Prop :=
  State.reset.regs.read .cpsr = 0x000000D3 ∧ ∀ sl, sl ≠ .cpsr → State.reset.regs.read sl = 0

/-! ## What callers do with ordinary commands (R58, R93, R94, R104: the spec's decisions and derivations; log 14) -/

/-- SETMODE leaves the mode it names in CPSR, and every bit above the mode field as it was (R58; D21; the field's place and the patterns are D1 and D2,
log 7). -/
def Obligations.SetModeSetsTheModeOnly : Prop :=
  ∀ (s : State) (m : Mode), ∃ t, Host.Core.run core 2 (s.withScript (setModeScript m s.regs.cpsr)) = .next t ∧
    t.regs = { s.regs with cpsr := t.regs.cpsr } ∧ decodeMode t.regs.cpsr = some m ∧
    ∀ k, 5 ≤ k → t.regs.cpsr.getLsbD k = s.regs.cpsr.getLsbD k

/-- SETSTATE leaves the state it names, and every bit but T as it was (R58; D21; the place and sense of T are D1 and D3, log 7). -/
def Obligations.SetStateSetsTheStateOnly : Prop :=
  ∀ (s : State) (st : InstrState), ∃ t, Host.Core.run core 2 (s.withScript (setStateScript st s.regs.cpsr)) = .next t ∧
    t.regs = { s.regs with cpsr := t.regs.cpsr } ∧ decodeState t.regs.cpsr = st ∧
    ∀ k, k ≠ 5 → t.regs.cpsr.getLsbD k = s.regs.cpsr.getLsbD k

/-- A caller sets up the stack of any mode from any state (R104): SP of that mode's bank holds the value, every other slot but CPSR is as it was. -/
def Obligations.StackIsSetUp : Prop :=
  ∀ (s : State) (m : Mode) (top : Word), ∃ t, Host.Core.run core 3 (s.withScript (stackScript m s.regs.cpsr top)) = .next t ∧
    decodeMode t.regs.cpsr = some m ∧ t.regs.read (.sp (bankIndex m)) = top ∧
    ∀ sl, sl ≠ .cpsr → sl ≠ .sp (bankIndex m) → t.regs.read sl = s.regs.read sl

/-- Exception entry by an external sequencer (R93), into a mode with a saved status register: the old CPSR stands in that mode's SPSR, the return address in
its LR, the vector in PC and the new status in CPSR, and no other slot changed; into User or System mode the WR spsr finds nowhere to save it: the CPSR saved
nowhere, the rest as before. -/
def Obligations.SequencerEntersAnException : Prop :=
  ∀ (s : State) (new ret vector : Word) (x : Mode), decodeMode new = some x →
    (∀ j : Fin 5, (bankIndex x).val = j.val + 1 →
      ∃ t, Host.Core.run core 5 (s.withScript (exceptionEntry s.regs.cpsr new ret vector)) = .next t ∧
        t.regs = { s.regs with cpsr := new, spsr := s.regs.spsr.set j s.regs.cpsr, lr := s.regs.lr.set (bankIndex x) ret, pc := vector }) ∧
    (x = .user ∨ x = .system →
      (∃ t, Host.Core.run core 3 (s.withScript (exceptionEntry s.regs.cpsr new ret vector)) = .next t ∧ t.resp = ⟨.invalidAccess, 0⟩) ∧
      ∃ t, Host.Core.run core 5 (s.withScript (exceptionEntry s.regs.cpsr new ret vector)) = .next t ∧
        t.regs = { s.regs with cpsr := new, lr := s.regs.lr.set (bankIndex x) ret, pc := vector })

/-- Entry into a mode with a saved status register and return from it (R93, R94): the CPSR before is back, PC holds the target, the mode's SPSR and LR hold what entry
saved, and every other slot, so the interrupted mode's SP and LR where its bank is another, is as it was. -/
def Obligations.SequencerReturnsToTheInterruptedMode : Prop :=
  ∀ (s : State) (new ret vector target : Word) (x : Mode) (j : Fin 5), decodeMode new = some x → (bankIndex x).val = j.val + 1 →
    ∃ t, Host.Core.run core 9
        (s.withScript (exceptionEntry s.regs.cpsr new ret vector ++ exceptionReturn target s.regs.cpsr)) = .next t ∧
      t.regs.cpsr = s.regs.cpsr ∧ t.regs.pc = target ∧ t.regs.read (.spsr j) = s.regs.cpsr ∧ t.regs.read (.lr (bankIndex x)) = ret ∧
      ∀ sl, sl ≠ .pc → sl ≠ .spsr j → sl ≠ .lr (bankIndex x) → t.regs.read sl = s.regs.read sl
end

