-- ==== Sys2Proof/Laws/Decode.lean ====
section
/-! SUPPORT. The fields of a command word, and reference codes against references. -/

namespace Sys2Proof

@[simp] theorem cmdField_commandWord (c : BitVec 3) (r : BitVec 5) : cmdField (commandWord c r) = c := by
  revert c r; decide

@[simp] theorem refField_commandWord (c : BitVec 3) (r : BitVec 5) : refField (commandWord c r) = r := by
  revert c r; decide

/-- A word is its two fields (R46). -/
@[simp] theorem commandWord_fields (w : CmdWord) : commandWord (cmdField w) (refField w) = w := by
  revert w; decide

/-- The code of a reference names it (R48). -/
@[simp] theorem refOfCode_refCode (r : RegRef) : refOfCode (refCode r) = some r := by
  cases r with
  | low n => revert n; decide
  | high n => revert n; decide
  | sp => decide
  | lr => decide
  | pc => decide
  | cpsr => decide
  | spsr => decide

/-- A code that names a reference is its code. -/
theorem refCode_of_refOfCode {c : BitVec 5} {r : RegRef} (h : refOfCode c = some r) : refCode r = c := by
  have key : ∀ c : BitVec 5, (refOfCode c).all (fun r => refCode r == c) = true := by decide
  have := key c
  simpa [h] using this

/-- The codes that name nothing are 18..31 (R48, R55). -/
theorem refOfCode_eq_none_iff (c : BitVec 5) : refOfCode c = none ↔ reservedRefCode c = true := by
  revert c; decide

@[simp] theorem decode_rd (r : BitVec 5) : decode (commandWord 0b001#3 r) = decodeRd r := by
  simp [decode]

@[simp] theorem decode_wr (r : BitVec 5) : decode (commandWord 0b010#3 r) = decodeWr r := by
  simp [decode]

theorem encode_rdInstr (r : RegRef) : encode (rdInstr r) = commandWord 0b001#3 (refCode r) := by
  cases r <;> rfl

theorem encode_wrInstr (r : RegRef) : encode (wrInstr r) = commandWord 0b010#3 (refCode r) := by
  cases r <;> rfl

/-- The word of an RD is decoded as that RD. -/
@[simp] theorem decode_encode_rdInstr (r : RegRef) : decode (encode (rdInstr r)) = rdInstr r := by
  simp [encode_rdInstr, decodeRd]

/-- The word of a WR is decoded as that WR. -/
@[simp] theorem decode_encode_wrInstr (r : RegRef) : decode (encode (wrInstr r)) = wrInstr r := by
  simp [encode_wrInstr, decodeWr]

@[simp] theorem readRef?_rdInstr (r : RegRef) : (rdInstr r).readRef? = some r := by cases r <;> rfl
@[simp] theorem writeRef?_wrInstr (r : RegRef) : (wrInstr r).writeRef? = some r := by cases r <;> rfl
@[simp] theorem readRef?_wrInstr (r : RegRef) : (wrInstr r).readRef? = none := by cases r <;> rfl
@[simp] theorem writeRef?_rdInstr (r : RegRef) : (rdInstr r).writeRef? = none := by cases r <;> rfl

/-- A command that reads a reference is its RD command. -/
theorem eq_rdInstr_of_readRef? {i : Instr} {r : RegRef} (h : i.readRef? = some r) : i = rdInstr r := by
  cases i <;> simp_all [Instr.readRef?] <;> subst h <;> rfl

/-- A command that writes a reference is its WR command. -/
theorem eq_wrInstr_of_writeRef? {i : Instr} {r : RegRef} (h : i.writeRef? = some r) : i = wrInstr r := by
  cases i <;> simp_all [Instr.writeRef?] <;> subst h <;> rfl

end Sys2Proof
end

