-- ==== Sys2Proof/Laws/Mux.lean ====
section
/-! SUPPORT. The decoder and the access mux: what `decodeMode` and `resolve` can answer. -/

namespace Sys2Proof.Machine

/-- A mode is decoded exactly from its own pattern (R59). -/
theorem decodeMode_eq_some_iff (w : Word) (m : Mode) : decodeMode w = some m ↔ modeField w = modePattern m := by
  unfold decodeMode
  generalize modeField w = f
  constructor
  · split <;> intro h <;> cases h <;> rfl
  · intro h
    subst h
    cases m <;> rfl

/-- The pattern of a mode tells it apart from every other. -/
theorem modePattern_injective {a b : Mode} (h : modePattern a = modePattern b) : a = b := by
  cases a <;> cases b <;> first | rfl | exact absurd h (by decide)

/-- Equal status words under the mode mask decode to the same mode: only bits 4:0 are examined (R59). -/
theorem decodeMode_congr {w w' : Word} (h : modeField w = modeField w') : decodeMode w = decodeMode w' := by
  unfold decodeMode; rw [h]

/-- Thumb is the T bit (R61). -/
theorem decodeState_eq_thumb_iff (w : Word) : decodeState w = .thumb ↔ w.getLsbD 5 = true := by
  have h : stateField w = BitVec.ofBool (w.getLsbD 5) := by
    ext i hi
    obtain rfl : i = 0 := by omega
    simp [stateField]
  unfold decodeState
  rw [h]
  cases w.getLsbD 5 <;> simp

theorem decodeState_eq_arm_iff (w : Word) : decodeState w = .arm ↔ w.getLsbD 5 = false := by
  have := decodeState_eq_thumb_iff w
  cases h : decodeState w <;> cases h' : w.getLsbD 5 <;> simp_all

/-- Two modes share a bank exactly if they are equal or are User and System (R20, R62). -/
theorem bankIndex_eq_iff (a b : Mode) :
    bankIndex a = bankIndex b ↔ a = b ∨ (a = .user ∧ b = .system) ∨ (a = .system ∧ b = .user) := by
  cases a <;> cases b <;> decide

@[simp] theorem resolve_low (n : Fin 8) (w : Word) : resolve (.low n) w = .ok (.lo n) := rfl
@[simp] theorem resolve_pc (w : Word) : resolve .pc w = .ok .pc := rfl
@[simp] theorem resolve_cpsr (w : Word) : resolve .cpsr w = .ok .cpsr := rfl

/-- Only the CPSR reference names the CPSR slot. -/
theorem eq_cpsr_of_resolve {ref : RegRef} {w : Word} (h : resolve ref w = .ok .cpsr) : ref = .cpsr := by
  cases ref with
  | low n => simp at h
  | pc => simp at h
  | cpsr => rfl
  | high n => simp only [resolve, resolveHigh] at h; split at h <;> (try split at h) <;> simp at h
  | sp => simp only [resolve, resolveBanked] at h; split at h <;> simp at h
  | lr => simp only [resolve, resolveBanked] at h; split at h <;> simp at h
  | spsr =>
    simp only [resolve, resolveSpsr, spsrSlot] at h
    split at h <;> (try split at h) <;> simp_all

/-- SP and LR under a legal mode. -/
theorem resolve_sp_of_mode {w : Word} {m : Mode} (h : decodeMode w = some m) :
    resolve .sp w = .ok (.sp (bankIndex m)) := by
  simp [resolve, resolveBanked, h]

theorem resolve_lr_of_mode {w : Word} {m : Mode} (h : decodeMode w = some m) :
    resolve .lr w = .ok (.lr (bankIndex m)) := by
  simp [resolve, resolveBanked, h]

/-- The slot of a bank that has an SPSR: SPSR[k] stands at k - 1 (C3). -/
theorem spsrSlot_of_succ {k : Fin 6} {j : Fin 5} (h : k.val = j.val + 1) : spsrSlot k = some (.spsr j) := by
  have hk : k.val ≠ 0 := by omega
  have hj : (⟨k.val - 1, by omega⟩ : Fin 5) = j := Fin.ext (by simp [h])
  simp only [spsrSlot, hk, dite_false, hj]

/-- SPSR under a mode that has one: bank `j + 1` (R22). -/
theorem resolve_spsr_of_mode {w : Word} {m : Mode} {j : Fin 5} (h : decodeMode w = some m)
    (hj : (bankIndex m).val = j.val + 1) : resolve .spsr w = .ok (.spsr j) := by
  have hs := spsrSlot_of_succ hj
  cases m with
  | user => cases hj
  | system => cases hj
  | fiq => simp only [resolve, resolveSpsr, h, hs]
  | irq => simp only [resolve, resolveSpsr, h, hs]
  | supervisor => simp only [resolve, resolveSpsr, h, hs]
  | abort => simp only [resolve, resolveSpsr, h, hs]
  | undefined => simp only [resolve, resolveSpsr, h, hs]

/-- SPSR in User and System mode. -/
theorem resolve_spsr_of_bank_zero {w : Word} {m : Mode} (h : decodeMode w = some m) (hm : m = .user ∨ m = .system) :
    resolve .spsr w = .error (.invalidAccess .spsr) := by
  rcases hm with rfl | rfl <;> simp [resolve, resolveSpsr, h]

/-- A high register in ARM state: FIQ's own slot in FIQ mode, the shared one in every other. -/
theorem resolve_high_of_mode {w : Word} {m : Mode} (n : Fin 5) (ht : decodeState w = .arm) (h : decodeMode w = some m) :
    resolve (.high n) w = .ok (if m = .fiq then .hiFiq n else .hiUsr n) := by
  cases m <;> simp [resolve, resolveHigh, ht, h]

/-- A high register in Thumb state, whatever the mode. -/
theorem resolve_high_of_thumb {w : Word} (n : Fin 5) (ht : decodeState w = .thumb) :
    resolve (.high n) w = .error (.invalidAccess (.high n)) := by
  simp [resolve, resolveHigh, ht]

end Sys2Proof.Machine
end

