-- ==== Sys2Proof/Laws/PerInstr.lean ====
section
/-! SUPPORT. The family TableRow: the word of every well-formed command fits its row of spec/opcode_table.json, that is, its bits under
the row's mask are the row's match value. -/

namespace Sys2Proof.Laws.TableRow

/-- The table's `mask` and `match` of a command's row. -/
def row : Instr → CmdWord × CmdWord
  | .nop _ => (0xE0#8, 0x00#8)
  | .rdLo _ => (0xF8#8, 0x20#8)
  | .rdHi _ => (0xF8#8, 0x28#8)
  | .rdSp => (0xFF#8, 0x2D#8)
  | .rdLr => (0xFF#8, 0x2E#8)
  | .rdPc => (0xFF#8, 0x2F#8)
  | .rdCpsr => (0xFF#8, 0x30#8)
  | .rdSpsr => (0xFF#8, 0x31#8)
  | .wrLo _ => (0xF8#8, 0x40#8)
  | .wrHi _ => (0xF8#8, 0x48#8)
  | .wrSp => (0xFF#8, 0x4D#8)
  | .wrLr => (0xFF#8, 0x4E#8)
  | .wrPc => (0xFF#8, 0x4F#8)
  | .wrCpsr => (0xFF#8, 0x50#8)
  | .wrSpsr => (0xFF#8, 0x51#8)
  | .mode _ => (0xE0#8, 0x60#8)
  | .state _ => (0xE0#8, 0x80#8)
  | .reservedCmd5 _ => (0xE0#8, 0xA0#8)
  | .reservedCmd67 _ => (0xC0#8, 0xC0#8)
  | .reservedRd _ => (0xF0#8, 0x30#8)
  | .reservedWr _ => (0xF0#8, 0x50#8)

/-- A well-formed command's word fits its row. -/
def Statement (i : Instr) : Prop := i.wellFormed = true → encode i &&& (row i).1 = (row i).2

theorem nop (ign : BitVec 5) : Statement (.nop ign) := by revert ign; unfold Statement; decide
theorem rdLo (n : Fin 8) : Statement (.rdLo n) := by revert n; unfold Statement; decide
theorem rdHi (n : Fin 5) : Statement (.rdHi n) := by revert n; unfold Statement; decide
theorem rdSp : Statement .rdSp := by unfold Statement; decide
theorem rdLr : Statement .rdLr := by unfold Statement; decide
theorem rdPc : Statement .rdPc := by unfold Statement; decide
theorem rdCpsr : Statement .rdCpsr := by unfold Statement; decide
theorem rdSpsr : Statement .rdSpsr := by unfold Statement; decide
theorem wrLo (n : Fin 8) : Statement (.wrLo n) := by revert n; unfold Statement; decide
theorem wrHi (n : Fin 5) : Statement (.wrHi n) := by revert n; unfold Statement; decide
theorem wrSp : Statement .wrSp := by unfold Statement; decide
theorem wrLr : Statement .wrLr := by unfold Statement; decide
theorem wrPc : Statement .wrPc := by unfold Statement; decide
theorem wrCpsr : Statement .wrCpsr := by unfold Statement; decide
theorem wrSpsr : Statement .wrSpsr := by unfold Statement; decide
theorem mode (ign : BitVec 5) : Statement (.mode ign) := by revert ign; unfold Statement; decide
theorem state (ign : BitVec 5) : Statement (.state ign) := by revert ign; unfold Statement; decide
theorem reservedCmd5 (ref : BitVec 5) : Statement (.reservedCmd5 ref) := by revert ref; unfold Statement; decide
theorem reservedCmd67 (bits : BitVec 6) : Statement (.reservedCmd67 bits) := by revert bits; unfold Statement; decide
theorem reservedRd (ref : BitVec 5) : Statement (.reservedRd ref) := by revert ref; unfold Statement; decide
theorem reservedWr (ref : BitVec 5) : Statement (.reservedWr ref) := by revert ref; unfold Statement; decide

end Sys2Proof.Laws.TableRow
end

