-- ==== Sys2Proof/Laws/State.lean ====
section
/-! SUPPORT. One lemma per field per update of State, and what reading a slot gives after a write: so that no later proof unfolds a
record update or a slot access. -/

namespace Sys2Proof.Machine

section Updates

variable (s : State) (c : RespCode) (d : Word) (w : CmdWord)

@[simp] theorem respond_regs : (s.respond c d).regs = s.regs := rfl
@[simp] theorem respond_port : (s.respond c d).port = s.port := rfl
@[simp] theorem respond_later : (s.respond c d).later = s.later := rfl
@[simp] theorem respond_resp : (s.respond c d).resp = ⟨c, d⟩ := rfl

@[simp] theorem advance_regs : s.advance.regs = s.regs := rfl
@[simp] theorem advance_port : s.advance.port = s.later.headD .idle := rfl
@[simp] theorem advance_later : s.advance.later = s.later.tail := rfl
@[simp] theorem advance_resp : s.advance.resp = s.resp := rfl

@[simp] theorem resetCycle_regs : s.resetCycle.regs = RegFile.reset := rfl
@[simp] theorem resetCycle_port : s.resetCycle.port = s.port := rfl
@[simp] theorem resetCycle_later : s.resetCycle.later = s.later := rfl
@[simp] theorem resetCycle_resp : s.resetCycle.resp = .zero := rfl

@[simp] theorem idleCycle_regs : s.idleCycle.regs = s.regs := rfl
@[simp] theorem idleCycle_port : s.idleCycle.port = s.port := rfl
@[simp] theorem idleCycle_later : s.idleCycle.later = s.later := rfl
@[simp] theorem idleCycle_resp : s.idleCycle.resp = .zero := rfl

@[simp] theorem present_regs : (s.present w).regs = s.regs := rfl
@[simp] theorem present_port : (s.present w).port = .ofWord w s.port.reqWdata := rfl
@[simp] theorem present_later : (s.present w).later = s.later := rfl
@[simp] theorem present_resp : (s.present w).resp = s.resp := rfl

@[simp] theorem ofWord_rst (v : Word) : (PortIn.ofWord w v).rst = false := rfl
@[simp] theorem ofWord_reqValid (v : Word) : (PortIn.ofWord w v).reqValid = true := rfl
@[simp] theorem ofWord_reqWord (v : Word) : (PortIn.ofWord w v).reqWord = w := rfl
@[simp] theorem ofWord_reqWdata (v : Word) : (PortIn.ofWord w v).reqWdata = v := rfl

@[simp] theorem wdata_def : s.wdata = s.port.reqWdata := rfl

end Updates

section Slots

variable (r : RegFile) (v : Word)

@[simp] theorem read_cpsr : r.read .cpsr = r.cpsr := rfl
@[simp] theorem read_pc : r.read .pc = r.pc := rfl

/-- A read after a write to the same slot gives the value written. -/
@[simp] theorem read_write_self (sl : Slot) : (r.write sl v).read sl = v := by
  cases sl <;> simp [RegFile.read, RegFile.write]

/-- A write leaves every other slot alone. -/
theorem read_write_of_ne {sl sl' : Slot} (h : sl' ≠ sl) : (r.write sl v).read sl' = r.read sl' := by
  cases sl <;> cases sl' <;> simp_all [RegFile.read, RegFile.write, Fin.ext_iff, eq_comm]

/-- The whole of a write, slot by slot. -/
theorem read_write (sl sl' : Slot) : (r.write sl v).read sl' = if sl' = sl then v else r.read sl' := by
  split
  · subst sl'; simp
  · exact read_write_of_ne r v ‹_›

@[simp] theorem write_cpsr_cpsr : (r.write .cpsr v).cpsr = v := rfl

/-- Only a write to the CPSR slot changes the status register. -/
theorem write_cpsr_of_ne {sl : Slot} (h : sl ≠ .cpsr) : (r.write sl v).cpsr = r.cpsr :=
  read_write_of_ne r v (sl := sl) (sl' := .cpsr) h.symm

/-- Two register files that hold the same in every slot are equal: the slots are all there is (R19). -/
theorem regFile_ext {a b : RegFile} (h : ∀ sl, a.read sl = b.read sl) : a = b := by
  obtain ⟨lo, hu, hf, pc, sp, lr, spsr, cpsr⟩ := a
  obtain ⟨lo', hu', hf', pc', sp', lr', spsr', cpsr'⟩ := b
  have e1 : lo = lo' := Vector.ext fun i hi => h (.lo ⟨i, hi⟩)
  have e2 : hu = hu' := Vector.ext fun i hi => h (.hiUsr ⟨i, hi⟩)
  have e3 : hf = hf' := Vector.ext fun i hi => h (.hiFiq ⟨i, hi⟩)
  have e4 : pc = pc' := h .pc
  have e5 : sp = sp' := Vector.ext fun i hi => h (.sp ⟨i, hi⟩)
  have e6 : lr = lr' := Vector.ext fun i hi => h (.lr ⟨i, hi⟩)
  have e7 : spsr = spsr' := Vector.ext fun i hi => h (.spsr ⟨i, hi⟩)
  have e8 : cpsr = cpsr' := h .cpsr
  subst e1 e2 e3 e4 e5 e6 e7 e8
  rfl

/-- Writing twice to one slot is the second write. -/
@[simp] theorem write_write_self (sl : Slot) (v' : Word) : (r.write sl v).write sl v' = r.write sl v' :=
  regFile_ext fun sl' => by simp only [read_write]; split <;> rfl

end Slots

/-- Every slot but CPSR is zero after reset, and CPSR is 0xD3 (R29, R30). -/
theorem read_reset (sl : Slot) : RegFile.reset.read sl = if sl = .cpsr then Config.cpsrReset else Config.slotReset := by
  cases sl <;> simp [RegFile.read, RegFile.reset]

end Sys2Proof.Machine
end

