-- ==== Sys2Proof/Laws/Step.lean ====
section
/-! SUPPORT. What a command and a step can do: one lemma per shared operation, one inversion for exec and one for step. -/

namespace Sys2Proof.Machine

/-- RD through a resolved reference. -/
theorem readRef_of_ok {ref : RegRef} {s : State} {sl : Slot} (h : resolve ref s.regs.cpsr = .ok sl) :
    readRef ref s = .next (s.respond .ok (s.regs.read sl)) := by
  simp [readRef, getRegister, h, answer]

/-- RD through a reference that resolves to an error. -/
theorem readRef_of_error {ref : RegRef} {s : State} {e : RegError} (h : resolve ref s.regs.cpsr = .error e) :
    readRef ref s = raiseError e s := by
  simp [readRef, getRegister, h, answer]

/-- WR through a resolved reference. -/
theorem writeRef_of_ok {ref : RegRef} {v : Word} {s : State} {sl : Slot} (h : resolve ref s.regs.cpsr = .ok sl) :
    writeRef ref v s = .next ({ s with regs := s.regs.write sl v }.respond .ok 0#32) := by
  simp [writeRef, setRegister, h]

/-- WR through a reference that resolves to an error. -/
theorem writeRef_of_error {ref : RegRef} {v : Word} {s : State} {e : RegError} (h : resolve ref s.regs.cpsr = .error e) :
    writeRef ref v s = raiseError e s := by
  simp [writeRef, setRegister, h]

/-- Every RD row is a read through its reference. -/
theorem exec_rdInstr (ref : RegRef) (s : State) : exec (rdInstr ref) s = readRef ref s := by cases ref <;> rfl

/-- Every WR row is a write through its reference of `req_wdata`. -/
theorem exec_wrInstr (ref : RegRef) (s : State) : exec (wrInstr ref) s = writeRef ref s.port.reqWdata s := by
  cases ref <;> rfl

/-- An error that lets the machine go on is INVALID_ACCESS, with data 0 and nothing written. -/
theorem raiseError_next {e : RegError} {s t : State} (h : raiseError e s = .next t) :
    (∃ ref, e = .invalidAccess ref) ∧ t = s.respond .invalidAccess 0#32 := by
  cases e with
  | invalidMachineState => cases h
  | invalidAccess ref =>
    cases h
    exact ⟨⟨ref, rfl⟩, rfl⟩

/-- Inversion of an answer: OK with the data, or INVALID_ACCESS. -/
theorem answer_next {r : Except RegError Word} {s t : State} (h : answer r s = .next t) :
    (∃ v, r = .ok v ∧ t = s.respond .ok v) ∨ (∃ ref, r = .error (.invalidAccess ref)) ∧ t = s.respond .invalidAccess 0#32 := by
  cases r with
  | ok v =>
    cases h
    exact .inl ⟨v, rfl, rfl⟩
  | error e =>
    obtain ⟨⟨ref, rfl⟩, ht⟩ := raiseError_next h
    exact .inr ⟨⟨ref, rfl⟩, ht⟩

/-- What a command that answers a next state did: it wrote the one slot its reference resolves to and answered OK with data 0; or it
wrote nothing and answered OK; or it wrote nothing and answered INVALID_ACCESS with data 0. -/
theorem exec_next {i : Instr} {s t : State} (h : exec i s = .next t) :
    (∃ ref sl, i.writeRef? = some ref ∧ resolve ref s.regs.cpsr = .ok sl
      ∧ t = { s with regs := s.regs.write sl s.port.reqWdata }.respond .ok 0#32)
    ∨ (i.writeRef? = none ∧ ∃ v, t = s.respond .ok v)
    ∨ t = s.respond .invalidAccess 0#32 := by
  rcases hw : i.writeRef? with _ | ref
  · have hans : ∀ r : Except RegError Word, answer r s = .next t →
        (∃ v, t = s.respond .ok v) ∨ t = s.respond .invalidAccess 0#32 := by
      intro r hr
      rcases answer_next hr with ⟨v, -, ht⟩ | ⟨-, ht⟩
      · exact .inl ⟨v, ht⟩
      · exact .inr ht
    rcases hr : i.readRef? with _ | ref
    · cases i with
      | nop ign => cases h; exact .inr (.inl ⟨rfl, _, rfl⟩)
      | mode ign => exact .inr ((hans _ h).imp_left (⟨rfl, ·⟩))
      | state ign => exact .inr ((hans _ h).imp_left (⟨rfl, ·⟩))
      | reservedCmd5 ref => cases h
      | reservedCmd67 bits => cases h
      | reservedRd ref => cases h
      | reservedWr ref => cases h
      | _ => simp_all [Instr.readRef?, Instr.writeRef?]
    · rw [eq_rdInstr_of_readRef? hr, exec_rdInstr] at h
      exact .inr ((hans _ h).imp_left (⟨rfl, ·⟩))
  · rw [eq_wrInstr_of_writeRef? hw, exec_wrInstr] at h
    rcases hres : resolve ref s.regs.cpsr with e | sl
    · rw [writeRef_of_error hres] at h
      exact .inr (.inr (raiseError_next h).2)
    · rw [writeRef_of_ok hres] at h
      cases h
      exact .inl ⟨ref, sl, rfl, hres, rfl⟩

/-- A command reads the port and never moves it. -/
theorem exec_next_port {i : Instr} {s t : State} (h : exec i s = .next t) : t.port = s.port ∧ t.later = s.later := by
  rcases exec_next h with ⟨_, _, _, _, rfl⟩ | ⟨_, _, rfl⟩ | rfl <;> exact ⟨rfl, rfl⟩

/-- A command on the port is performed by the step (R44). -/
theorem step_of_command {s : State} (hr : s.port.rst = false) (hv : s.port.reqValid = true) :
    step s = thenAdvance (exec s.command s) := by
  simp [step, hr, hv]

/-- What a step that answers a next state did: a reset, an idle cycle, or the presented command. -/
theorem step_next {s t : State} (h : step s = .next t) :
    (s.port.rst = true ∧ t = s.resetCycle.advance)
    ∨ (s.port.rst = false ∧ s.port.reqValid = false ∧ t = s.idleCycle.advance)
    ∨ (s.port.rst = false ∧ s.port.reqValid = true ∧ ∃ u, exec s.command s = .next u ∧ t = u.advance) := by
  rcases hr : s.port.rst with _ | _
  · rcases hv : s.port.reqValid with _ | _
    · simp only [step, hr, hv] at h
      cases h
      exact .inr (.inl ⟨rfl, rfl, rfl⟩)
    · rw [step_of_command hr hv] at h
      rcases he : exec s.command s with u | f | r
      · rw [he] at h
        cases h
        exact .inr (.inr ⟨rfl, rfl, u, rfl, rfl⟩)
      · rw [he] at h
        cases h
      · rw [he] at h
        cases h
  · simp only [step, hr] at h
    cases h
    exact .inl ⟨rfl, rfl⟩

end Sys2Proof.Machine
end

