-- ==== Sys2Proof/Laws/Script.lean ====
section
/-! SUPPORT. Runs of a script on the port: one lemma per read or write of it, so that a run is followed by rewriting. -/

namespace Sys2Proof.Machine

@[simp] theorem rd_rst (ref : RegRef) : (PortIn.rd ref).rst = false := rfl
@[simp] theorem rd_reqValid (ref : RegRef) : (PortIn.rd ref).reqValid = true := rfl
@[simp] theorem rd_reqWord (ref : RegRef) : (PortIn.rd ref).reqWord = encode (rdInstr ref) := rfl
@[simp] theorem wr_rst (ref : RegRef) (v : Word) : (PortIn.wr ref v).rst = false := rfl
@[simp] theorem wr_reqValid (ref : RegRef) (v : Word) : (PortIn.wr ref v).reqValid = true := rfl
@[simp] theorem wr_reqWord (ref : RegRef) (v : Word) : (PortIn.wr ref v).reqWord = encode (wrInstr ref) := rfl
@[simp] theorem wr_reqWdata (ref : RegRef) (v : Word) : (PortIn.wr ref v).reqWdata = v := rfl

/-- The state with slots `r`, the script `l` on its port and response outputs `q`. -/
def scripted (r : RegFile) (q : Response) (l : List PortIn) : State :=
  { regs := r, port := l.headD .idle, later := l.tail, resp := q }

theorem withScript_eq (s : State) (l : List PortIn) : s.withScript l = scripted s.regs s.resp l := rfl

section

variable {r : RegFile} {q : Response} {l : List PortIn} {p : PortIn}

@[simp] theorem scripted_regs : (scripted r q l).regs = r := rfl
@[simp] theorem scripted_resp : (scripted r q l).resp = q := rfl
@[simp] theorem scripted_port : (scripted r q (p :: l)).port = p := rfl
@[simp] theorem scripted_later : (scripted r q (p :: l)).later = l := rfl

/-- After the first cycle of a script comes the rest of it, with the slots and the response the cycle left. -/
theorem advance_scripted {u : State} (h : u.later = l) : u.advance = scripted u.regs u.resp l := by
  subst h; rfl

/-- A WR of a script whose reference resolves. -/
theorem step_scripted_wr {ref : RegRef} {v : Word} {sl : Slot} (h : resolve ref r.cpsr = .ok sl) :
    step (scripted r q (.wr ref v :: l)) = .next (scripted (r.write sl v) ⟨.ok, 0#32⟩ l) := by
  rw [step_of_command (by simp) (by simp), State.command, scripted_port, wr_reqWord, decode_encode_wrInstr, exec_wrInstr,
    writeRef_of_ok (sl := sl) (by simpa using h), scripted_port, wr_reqWdata, scripted_regs]
  exact congrArg Host.Outcome.next (advance_scripted rfl)

/-- An RD of a script whose reference resolves. -/
theorem step_scripted_rd {ref : RegRef} {sl : Slot} (h : resolve ref r.cpsr = .ok sl) :
    step (scripted r q (.rd ref :: l)) = .next (scripted r ⟨.ok, r.read sl⟩ l) := by
  rw [step_of_command (by simp) (by simp), State.command, scripted_port, rd_reqWord, decode_encode_rdInstr, exec_rdInstr,
    readRef_of_ok (sl := sl) (by simpa using h), scripted_regs]
  exact congrArg Host.Outcome.next (advance_scripted rfl)

/-- A WR of a script that is an invalid access. -/
theorem step_scripted_wr_invalid {ref x : RegRef} {v : Word} (h : resolve ref r.cpsr = .error (.invalidAccess x)) :
    step (scripted r q (.wr ref v :: l)) = .next (scripted r ⟨.invalidAccess, 0#32⟩ l) := by
  rw [step_of_command (by simp) (by simp), State.command, scripted_port, wr_reqWord, decode_encode_wrInstr, exec_wrInstr,
    writeRef_of_error (e := .invalidAccess x) (by simpa using h)]
  exact congrArg Host.Outcome.next (advance_scripted rfl)

/-- An RD of a script that is an invalid access. -/
theorem step_scripted_rd_invalid {ref x : RegRef} (h : resolve ref r.cpsr = .error (.invalidAccess x)) :
    step (scripted r q (.rd ref :: l)) = .next (scripted r ⟨.invalidAccess, 0#32⟩ l) := by
  rw [step_of_command (by simp) (by simp), State.command, scripted_port, rd_reqWord, decode_encode_rdInstr, exec_rdInstr,
    readRef_of_error (e := .invalidAccess x) (by simpa using h)]
  exact congrArg Host.Outcome.next (advance_scripted rfl)

/-- An RD of a script under an illegal mode field that needs the mode. -/
theorem step_scripted_rd_fault {ref : RegRef} (h : resolve ref r.cpsr = .error .invalidMachineState) :
    step (scripted r q (.rd ref :: l)) = .fault .invalidMachineState := by
  rw [step_of_command (by simp) (by simp), State.command, scripted_port, rd_reqWord, decode_encode_rdInstr, exec_rdInstr,
    readRef_of_error (e := .invalidMachineState) (by simpa using h)]
  rfl

/-- A WR of a script under an illegal mode field that needs the mode. -/
theorem step_scripted_wr_fault {ref : RegRef} {v : Word} (h : resolve ref r.cpsr = .error .invalidMachineState) :
    step (scripted r q (.wr ref v :: l)) = .fault .invalidMachineState := by
  rw [step_of_command (by simp) (by simp), State.command, scripted_port, wr_reqWord, decode_encode_wrInstr, exec_wrInstr,
    writeRef_of_error (e := .invalidMachineState) (by simpa using h)]
  rfl

end

/-- A run whose first step goes on is the run from the state it answers. -/
theorem run_succ_of_next {k : Nat} {s t : State} (h : step s = .next t) :
    Host.Core.run core (k + 1) s = Host.Core.run core k t := by
  have h' : core.step s = .next t := h
  simp only [Host.Core.run, h']

@[simp] theorem run_zero (s : State) : Host.Core.run core 0 s = .next s := rfl

end Sys2Proof.Machine
end

