-- ==== Sys2Proof/Tests/Slice0.lean ====
section
/-! SUPPORT. The model's own tests. Expected values are those of spec/95_test_vectors.md (the vector is named at each test), never the model's.
Then, for every statement with hypotheses, a concrete state and operands that meet them. -/

namespace Sys2Proof.Tests

open Sys2Proof Sys2Proof.Machine

/-! ## WellFormed: an ill-formed term for each check -/

theorem test_wellFormed_refuses_reservedRd_17 : (Instr.reservedRd 17#5).wellFormed = false := by decide
theorem test_wellFormed_refuses_reservedWr_0 : (Instr.reservedWr 0#5).wellFormed = false := by decide
theorem test_wellFormed_accepts_18_and_31 :
    (Instr.reservedRd 18#5).wellFormed = true ∧ (Instr.reservedWr 31#5).wellFormed = true := by decide

/-! ## Decoding: words written out from the encodings of the opcode table, `cmd` then `ref` -/

theorem test_decode_nop : decode 0b00000000#8 = .nop 0 ∧ decode 0b00011111#8 = .nop 31 := by decide
theorem test_decode_rdLo : decode 0b00100000#8 = .rdLo 0 ∧ decode 0b00100111#8 = .rdLo 7 := by decide
theorem test_decode_rdHi : decode 0b00101000#8 = .rdHi 0 ∧ decode 0b00101100#8 = .rdHi 4 := by decide
theorem test_decode_rdSp : decode 0b00101101#8 = .rdSp := by decide
theorem test_decode_rdLr : decode 0b00101110#8 = .rdLr := by decide
theorem test_decode_rdPc : decode 0b00101111#8 = .rdPc := by decide
theorem test_decode_rdCpsr : decode 0b00110000#8 = .rdCpsr := by decide
theorem test_decode_rdSpsr : decode 0b00110001#8 = .rdSpsr := by decide
theorem test_decode_wrLo : decode 0b01000000#8 = .wrLo 0 ∧ decode 0b01000111#8 = .wrLo 7 := by decide
theorem test_decode_wrHi : decode 0b01001000#8 = .wrHi 0 ∧ decode 0b01001100#8 = .wrHi 4 := by decide
theorem test_decode_wrSp : decode 0b01001101#8 = .wrSp := by decide
theorem test_decode_wrLr : decode 0b01001110#8 = .wrLr := by decide
theorem test_decode_wrPc : decode 0b01001111#8 = .wrPc := by decide
theorem test_decode_wrCpsr : decode 0b01010000#8 = .wrCpsr := by decide
theorem test_decode_wrSpsr : decode 0b01010001#8 = .wrSpsr := by decide
theorem test_decode_mode : decode 0b01100000#8 = .mode 0 ∧ decode 0b01111111#8 = .mode 31 := by decide
theorem test_decode_state : decode 0b10000000#8 = .state 0 ∧ decode 0b10011111#8 = .state 31 := by decide
theorem test_decode_reservedCmd5 : decode 0b10100000#8 = .reservedCmd5 0 ∧ decode 0b10111111#8 = .reservedCmd5 31 := by decide
theorem test_decode_reservedCmd67 : decode 0b11000000#8 = .reservedCmd67 0 ∧ decode 0b11111111#8 = .reservedCmd67 63 := by decide
theorem test_decode_reservedRd : decode 0b00110010#8 = .reservedRd 18 ∧ decode 0b00111111#8 = .reservedRd 31 := by decide
theorem test_decode_reservedWr : decode 0b01010010#8 = .reservedWr 18 ∧ decode 0b01011111#8 = .reservedWr 31 := by decide
theorem test_decodeTableWord_takes_one_byte :
    decodeTableWord 8 0x60 = some (.mode 0) ∧ decodeTableWord 8 256 = none ∧ decodeTableWord 16 0x60 = none := by decide

/-! ## Commands, on the start states of vectors 2.4 to 2.6 -/

/-- The slots vectors 2.4 and 2.5 start from, under a status word. -/
def regsAt (cpsr : Word) : RegFile :=
  { RegFile.reset with
    lo := #v[0, 0, 0, 0, 0, 0, 0, 0x77], hiUsr := #v[0x10, 0x11, 0x12, 0x13, 0x14], hiFiq := #v[0xF0, 0xF1, 0xF2, 0xF3, 0xF4],
    pc := 0x08000000, sp := #v[0xA0, 0xA1, 0xA2, 0xA3, 0xA4, 0xA5], lr := #v[0xB0, 0xB1, 0xB2, 0xB3, 0xB4, 0xB5],
    spsr := #v[0x11, 0x22, 0x33, 0x44, 0x55], cpsr := cpsr }

/-- That state with a command on the port. -/
def stateAt (cpsr : Word) (w : CmdWord) (d : Word) : State :=
  { regs := regsAt cpsr, port := .ofWord w d, later := [], resp := .zero }

/-- `resp_code` and `resp_rdata` of the cycle. -/
def respAt (cpsr : Word) (w : CmdWord) (d : Word) : Response := (stateAt cpsr w d).respOut

/-- A slot after the cycle. -/
def slotAt (cpsr : Word) (w : CmdWord) (d : Word) (sl : Slot) : Word := (blockStep (stateAt cpsr w d)).regs.read sl

-- 2.7
theorem test_nop_with_illegal_mode : respAt 0xC0 0x00 0 = ⟨.ok, 0⟩ := by decide
-- 2.5
theorem test_rdLo_thumb_and_illegal : respAt 0xF0 0x27 0 = ⟨.ok, 0x77⟩ ∧ respAt 0xC0 0x27 0 = ⟨.ok, 0x77⟩ := by decide
-- 2.4
theorem test_rdHi_banks : respAt 0xDF 0x2C 0 = ⟨.ok, 0x14⟩ ∧ respAt 0xD2 0x2A 0 = ⟨.ok, 0x12⟩ ∧ respAt 0xD1 0x28 0 = ⟨.ok, 0xF0⟩ := by
  decide
theorem test_rdHi_errors : respAt 0xF1 0x28 0 = ⟨.invalidAccess, 0⟩ ∧ respAt 0xE0 0x28 0 = ⟨.invalidAccess, 0⟩
    ∧ respAt 0xC0 0x28 0 = ⟨.invalidMachineState, 0⟩ := by decide
-- 2.5
theorem test_rdSp_banks : respAt 0xD0 0x2D 0 = ⟨.ok, 0xA0⟩ ∧ respAt 0xDF 0x2D 0 = ⟨.ok, 0xA0⟩ ∧ respAt 0xD3 0x2D 0 = ⟨.ok, 0xA2⟩
    ∧ respAt 0xD2 0x2D 0 = ⟨.ok, 0xA4⟩ ∧ respAt 0xFB 0x2D 0 = ⟨.ok, 0xA5⟩ := by decide
theorem test_rdSp_illegal_mode : respAt 0xC0 0x2D 0 = ⟨.invalidMachineState, 0⟩ := by decide
theorem test_rdLr_banks : respAt 0xD1 0x2E 0 = ⟨.ok, 0xB1⟩ ∧ respAt 0xD7 0x2E 0 = ⟨.ok, 0xB3⟩ ∧ respAt 0xDB 0x2E 0 = ⟨.ok, 0xB5⟩ := by
  decide
theorem test_rdPc_illegal_mode : respAt 0xC0 0x2F 0 = ⟨.ok, 0x08000000⟩ := by decide
theorem test_rdCpsr_illegal_mode : respAt 0xC0 0x30 0 = ⟨.ok, 0xC0⟩ := by decide
-- 2.6
theorem test_rdSpsr_banks : respAt 0xD1 0x31 0 = ⟨.ok, 0x11⟩ ∧ respAt 0xD3 0x31 0 = ⟨.ok, 0x22⟩ ∧ respAt 0xD7 0x31 0 = ⟨.ok, 0x33⟩
    ∧ respAt 0xF2 0x31 0 = ⟨.ok, 0x44⟩ ∧ respAt 0xDB 0x31 0 = ⟨.ok, 0x55⟩ := by decide
theorem test_rdSpsr_errors : respAt 0xD0 0x31 0 = ⟨.invalidAccess, 0⟩ ∧ respAt 0xDF 0x31 0 = ⟨.invalidAccess, 0⟩
    ∧ respAt 0xC0 0x31 0 = ⟨.invalidMachineState, 0⟩ := by decide
-- 2.5
theorem test_wrLo_r0 : slotAt 0xD0 0x40 0xFFFFFFFF (.lo 0) = 0xFFFFFFFF ∧ respAt 0xD0 0x40 0xFFFFFFFF = ⟨.ok, 0⟩ := by decide
-- 2.4
theorem test_wrHi_banks : slotAt 0xD1 0x4C 0xAA (.hiFiq 4) = 0xAA ∧ slotAt 0xD1 0x4C 0xAA (.hiUsr 4) = 0x14
    ∧ slotAt 0xDB 0x49 0xBB (.hiUsr 1) = 0xBB ∧ slotAt 0xDB 0x49 0xBB (.hiFiq 1) = 0xF1 := by decide
theorem test_wrHi_errors : respAt 0xF1 0x4A 1 = ⟨.invalidAccess, 0⟩ ∧ slotAt 0xF1 0x4A 1 (.hiFiq 2) = 0xF2
    ∧ respAt 0xC0 0x48 5 = ⟨.invalidMachineState, 0⟩ := by decide
-- 1.2
theorem test_wrSp_supervisor : slotAt 0xD3 0x4D 0x03007F00 (.sp 2) = 0x03007F00 ∧ slotAt 0xD3 0x4D 0x03007F00 (.sp 4) = 0xA4 := by decide
-- 2.5
theorem test_wrLr_system : slotAt 0xDF 0x4E 0x1234 (.lr 0) = 0x1234 ∧ respAt 0xC0 0x4E 1 = ⟨.invalidMachineState, 0⟩ := by decide
theorem test_wrPc_not_aligned : slotAt 0xC0 0x4F 0x08000003 .pc = 0x08000003 := by decide
theorem test_wrCpsr_keeps_every_bit : slotAt 0xD0 0x50 0x0FFFFF1F .cpsr = 0x0FFFFF1F ∧ slotAt 0xC0 0x50 0xD3 .cpsr = 0xD3 := by decide
-- 2.6
theorem test_wrSpsr_unchecked : slotAt 0xD3 0x51 0xC0 (.spsr 1) = 0xC0 ∧ slotAt 0xDB 0x51 0x99 (.spsr 4) = 0x99 := by decide
theorem test_wrSpsr_system : respAt 0xDF 0x51 9 = ⟨.invalidAccess, 0⟩ := by decide
-- 2.2
theorem test_mode_codes : [0xD0, 0xD1, 0xD2, 0xD3, 0xD7, 0xDB, 0xDF, 0xF3].map (fun c => respAt c 0x60 0)
    = [⟨.ok, 0⟩, ⟨.ok, 1⟩, ⟨.ok, 2⟩, ⟨.ok, 3⟩, ⟨.ok, 4⟩, ⟨.ok, 5⟩, ⟨.ok, 6⟩, ⟨.ok, 3⟩] := by decide
theorem test_mode_illegal : respAt 0xC0 0x60 0 = ⟨.invalidMachineState, 0⟩ ∧ respAt 0xD4 0x7F 0 = ⟨.invalidMachineState, 0⟩ := by decide
-- 2.3
theorem test_state_codes : respAt 0xD3 0x80 0 = ⟨.ok, 0⟩ ∧ respAt 0xF0 0x80 0 = ⟨.ok, 1⟩ ∧ respAt 0xE0 0x80 0 = ⟨.invalidMachineState, 0⟩ := by
  decide
theorem test_field_ports : fieldOutputs 0x40000050 = ⟨0x10, true, 0, 0, 0, false, true, false, false, false, true⟩
    ∧ (fieldOutputs 0xE0).stateT = 1 ∧ (fieldOutputs 0xC0).bankIdx = 7 ∧ (fieldOutputs 0xD2).bankIdx = 4 := by decide
-- 2.7
theorem test_reserved_words : [0x32, 0x5F, 0xA0, 0xFF].map (fun w => respAt 0xC0 w 1)
    = [⟨.reservedEncoding, 0⟩, ⟨.reservedEncoding, 0⟩, ⟨.reservedEncoding, 0⟩, ⟨.reservedEncoding, 0⟩] := by decide
-- 2.8
theorem test_reset_wins_over_a_command :
    (blockStep { stateAt 0xD0 0x40 5 with port := ⟨true, true, 0x40, 5⟩ }).regs = RegFile.reset := by decide
-- 2.1
theorem test_decode_mode_looks_at_no_other_bit :
    decodeMode 0xFFFFFFF3 = some .supervisor ∧ decodeMode 0x000000E0 = none := by decide
/-- A word placed after reset runs as the first command: MODE answers Supervisor (vector 1.1). -/
theorem test_first_command_after_reset : (blockStep (State.reset.withFetchWord 8 0x60)).resp = ⟨.ok, 3⟩ := by decide

/-! ## Assembler lines of 30_encoding.md R57, R58 -/

theorem test_assemble_write : assemble "wr SP, 0x03007F00".toList = some (.command .wrSp 0x03007F00) := by decide
theorem test_assemble_alias_and_pseudo : assemble "RD r13".toList = some (.command .rdSp 0)
    ∧ assemble "SETMODE svc".toList = some (.setMode .supervisor) ∧ assemble "; reset".toList = some .reset
    ∧ assemble "RD r16".toList = none ∧ assemble "WR r8, 4294967296".toList = none := by decide
theorem test_listing_of_R57 : listing .wrSp 0x03007F00 = "0x4D 0x03007F00  WR sp, 0x03007F00".toList := by decide

-- R58: SETMODE is RD cpsr, then WR cpsr of the value with the mode's pattern
theorem test_setmode_expands : (AsmLine.setMode .irq).inputs 0x600000D3 = [⟨false, true, 0x30, 0⟩, ⟨false, true, 0x50, 0x600000D2⟩] := by decide

-- R51
theorem test_response_code_bits :
    [RespCode.ok, .invalidMachineState, .invalidAccess, .reservedEncoding].map respCodeBits = [0b00, 0b01, 0b10, 0b11] := by decide

/-! ## Witnesses: a state and operands for the hypotheses of every statement that has some -/

theorem witness_EncodeThenDecodeGivesTheCommand :
    (Instr.reservedRd 31).wellFormed = true ∧ (Instr.reservedWr 18).wellFormed = true ∧ (Instr.nop 31).wellFormed = true := by decide
theorem witness_StepRunsTheDecodedCommand :
    (stateAt 0xC0 0x2D 0).port.rst = false ∧ (stateAt 0xC0 0x2D 0).port.reqValid = true
    ∧ decode (stateAt 0xC0 0x2D 0).port.reqWord = .rdSp ∧ exec .rdSp (stateAt 0xC0 0x2D 0) = .fault .invalidMachineState
    ∧ (∃ t, exec .rdSp (stateAt 0xD3 0x2D 0) = .next t) ∧ (∃ r, exec (.reservedRd 18) (stateAt 0xD3 0x32 0) = .refused r) :=
  ⟨rfl, rfl, rfl, rfl, ⟨_, rfl⟩, ⟨_, rfl⟩⟩
theorem witness_IdleCycleChangesNothing : State.reset.port.rst = false ∧ State.reset.port.reqValid = false := by decide
theorem witness_ResetCycleLoadsEverySlot : (⟨regsAt 0xC0, ⟨true, true, 0x40, 5⟩, [], .zero⟩ : State).port.rst = true ∧ Slot.pc ≠ .cpsr := by
  decide
theorem witness_IllegalPatternsDecodeToNoMode : decodeMode (stateAt 0x00 0x60 0).regs.cpsr = none ∧ decodeMode 0xDE = none := by decide
theorem witness_StateBitDecodes :
    (0xDF : Word).getLsbD 5 = false ∧ (0x20 : Word).getLsbD 5 = true ∧ (0xFFFFFFFF : Word).getLsbD 5 = (0x20 : Word).getLsbD 5 := by decide
theorem witness_DecoderPorts : decodeMode (regsAt 0xDF).cpsr = some .system ∧ decodeMode (regsAt 0xC0).cpsr = none := by decide
theorem witness_ExactlyThirtySevenSlots : (∀ sl, (regsAt 0xD3).read sl = (regsAt 0xD3).read sl) := fun _ => rfl
theorem witness_NoSpsrForBankZero :
    resolve .spsr 0xDB = .ok (.spsr 4) ∧ resolve .spsr 0xD1 = .ok (.spsr 0) ∧ decodeMode 0xDF = some .system ∧ decodeMode 0xD0 = some .user :=
  ⟨rfl, rfl, rfl, rfl⟩
theorem witness_ReadHigh :
    decodeState (regsAt 0xE0).cpsr = .thumb ∧ (decodeState (regsAt 0xC0).cpsr = .arm ∧ decodeMode (regsAt 0xC0).cpsr = none)
    ∧ (decodeState (regsAt 0xD1).cpsr = .arm ∧ decodeMode (regsAt 0xD1).cpsr = some .fiq)
    ∧ (decodeState (regsAt 0xDF).cpsr = .arm ∧ decodeMode (regsAt 0xDF).cpsr = some .system ∧ Mode.system ≠ .fiq) := by decide
theorem witness_WriteHigh :
    decodeState (regsAt 0xFF).cpsr = .thumb ∧ (decodeState (regsAt 0xDE).cpsr = .arm ∧ decodeMode (regsAt 0xDE).cpsr = none)
    ∧ (decodeState (regsAt 0x11).cpsr = .arm ∧ decodeMode (regsAt 0x11).cpsr = some .fiq)
    ∧ (decodeState (regsAt 0x10).cpsr = .arm ∧ decodeMode (regsAt 0x10).cpsr = some .user ∧ Mode.user ≠ .fiq) := by decide
theorem witness_ReadSpAndLr : decodeMode (regsAt 0xF0).cpsr = some .user ∧ decodeMode (regsAt 0xC0).cpsr = none := by decide
theorem witness_WriteSpAndLr : decodeMode (regsAt 0xDB).cpsr = some .undefined ∧ decodeMode (regsAt 0xD4).cpsr = none := by decide
theorem witness_ReadSpsr :
    (decodeMode (regsAt 0xD1).cpsr = some .fiq ∧ (bankIndex .fiq).val = (0 : Fin 5).val + 1)
    ∧ (decodeMode (regsAt 0xD0).cpsr = some .user) ∧ (decodeMode (regsAt 0xDF).cpsr = some .system) ∧ decodeMode (regsAt 0xC0).cpsr = none := by
  decide
theorem witness_WriteSpsr :
    (decodeMode (regsAt 0xFB).cpsr = some .undefined ∧ (bankIndex .undefined).val = (4 : Fin 5).val + 1)
    ∧ (decodeMode (regsAt 0xF0).cpsr = some .user) ∧ (decodeMode (regsAt 0xFF).cpsr = some .system) ∧ decodeMode (regsAt 0xE0).cpsr = none := by
  decide
theorem witness_ModeQuery : decodeMode (regsAt 0xF7).cpsr = some .abort ∧ decodeMode (regsAt 0xFE).cpsr = none := by decide
theorem witness_StateQuery : decodeMode (regsAt 0xF0).cpsr = some .user ∧ decodeMode (regsAt 0xE0).cpsr = none := by decide
theorem witness_CommandsHaveNoOtherSideEffect :
    (Instr.rdSpsr.writeRef? = none ∧ ∃ t, exec .rdSpsr (stateAt 0xD3 0x31 0) = .next t)
    ∧ (Instr.wrSp.writeRef? = some .sp ∧ (∃ t, exec .wrSp (stateAt 0xD3 0x4D 9) = .next t) ∧ resolve .sp 0xD3 = .ok (.sp 2))
    ∧ (Instr.wrSpsr.writeRef? = some .spsr ∧ (∃ t, exec .wrSpsr (stateAt 0xD0 0x51 9) = .next t)
      ∧ resolve .spsr 0xD0 = .error (.invalidAccess .spsr))
    ∧ ∃ t, exec .wrCpsr (stateAt 0xD3 0x50 0xC0) = .next t := ⟨⟨rfl, _, rfl⟩, ⟨rfl, ⟨_, rfl⟩, rfl⟩, ⟨rfl, ⟨_, rfl⟩, rfl⟩, _, rfl⟩
theorem witness_WrittenValueIsReadBack :
    ∃ t, exec (wrInstr (.high 4)) (stateAt 0xD1 0x4C 0xAA) = .next t ∧ t.resp.code = .ok := ⟨_, rfl, rfl⟩
theorem witness_FailedCommandsWriteNothing :
    (stateAt 0xF1 0x4A 1).respOut.code ≠ .ok ∧ (stateAt 0xC0 0x4D 1).respOut.code ≠ .ok ∧ (stateAt 0xD3 0x5F 1).respOut.code ≠ .ok := by decide
theorem witness_OneErrorPerStepInOrder : (stateAt 0xE0 0x28 0).port.rst = false ∧ (stateAt 0xE0 0x28 0).port.reqValid = true := by decide
theorem witness_BlockGoesOnWhereARunStops :
    (∃ t, step (stateAt 0xD3 0x60 0) = .next t) ∧ step (stateAt 0xC0 0x60 0) = .fault .invalidMachineState
    ∧ step (stateAt 0xD3 0xFF 0) = .refused (.reservedEncoding 0xFF) := ⟨⟨_, rfl⟩, rfl, rfl⟩
theorem witness_SlotsChangeOnlyByWriteOrReset :
    ∃ t, step (stateAt 0xD3 0x4D 9) = .next t ∧ t.regs.read (.sp 2) ≠ (stateAt 0xD3 0x4D 9).regs.read (.sp 2) :=
  ⟨_, rfl, by decide⟩
theorem witness_PcChangesOnlyByWritePcOrReset :
    ∃ t, step (stateAt 0xC0 0x4F 9) = .next t ∧ t.regs.pc ≠ (stateAt 0xC0 0x4F 9).regs.pc := ⟨_, rfl, by decide⟩
theorem witness_ModeChangesOnlyByWriteCpsrOrReset :
    ∃ t, step (stateAt 0xD0 0x50 0xC0) = .next t ∧ t.regs.cpsr ≠ (stateAt 0xD0 0x50 0xC0).regs.cpsr := ⟨_, rfl, by decide⟩
theorem witness_CpsrWriteGovernsTheNextCommand :
    resolve .sp 0xD2 = .ok (.sp 4) ∧ resolve (.high 0) 0xF1 = .error (.invalidAccess (.high 0))
    ∧ resolve .lr 0xC0 = .error .invalidMachineState := ⟨rfl, rfl, rfl⟩

/-- The state of `stateAt` in Supervisor mode, and the same with another SP of User mode, which Supervisor does not select. -/
theorem witness_HiddenSlotsKeepAndDoNotShow :
    AgreeOnSelected 0xD3 (regsAt 0xD3) ((regsAt 0xD3).write (.sp 0) 0x5A) ∧ ((regsAt 0xD3).write (.sp 0) 0x5A).cpsr = (regsAt 0xD3).cpsr
    ∧ regsAt 0xD3 ≠ (regsAt 0xD3).write (.sp 0) 0x5A
    ∧ (stateAt 0xD3 0x4D 9).port.rst = false ∧ (stateAt 0xD3 0x4D 9).command ≠ .wrCpsr
    ∧ (∃ t, step (stateAt 0xD3 0x4D 9) = .next t) := by
  refine ⟨?_, by decide, by decide, by decide, by decide, ⟨_, rfl⟩⟩
  rintro sl ⟨ref, h⟩
  have hne : sl ≠ .sp 0 := by
    rintro rfl
    cases ref with
    | low n => cases h
    | high n => cases h
    | sp => cases h
    | lr => cases h
    | pc => cases h
    | cpsr => cases h
    | spsr => cases h
  exact (read_write_of_ne _ _ hne).symm

theorem witness_StackAndLinkAreIsolated :
    decodeMode (stateAt 0xD0 0 0).regs.cpsr = some .user ∧ decodeMode 0xDF = some .system ∧ decodeMode 0xD2 = some .irq := by decide
theorem witness_HighRegistersAreIsolated :
    decodeMode (stateAt 0xD0 0 0).regs.cpsr = some .user ∧ decodeState (stateAt 0xD0 0 0).regs.cpsr = .arm
    ∧ decodeMode 0xD1 = some .fiq ∧ decodeState 0xD1 = .arm := by decide
theorem witness_SavedStatusIsIsolated :
    decodeMode (stateAt 0xD1 0 0).regs.cpsr = some .fiq ∧ decodeMode 0xDB = some .undefined
    ∧ (bankIndex .undefined).val = (4 : Fin 5).val + 1 := by decide

/-- A harmless session with a switch of mode and a push of the stack pointer in it. -/
def session : State := State.reset.withScript [.wr .cpsr 0xD2, .wr .sp 0x03007FA0, .rd .sp]

theorem witness_HarmlessSessionIsKept : HarmlessSession session ∧ ∃ t, step session = .next t := ⟨⟨by decide, by decide⟩, _, rfl⟩
theorem witness_HarmlessSessionNeverStops : HarmlessSession session := ⟨by decide, by decide⟩
theorem witness_ShownResponsesAreKept : RespShown session ∧ ∃ t, step session = .next t := ⟨.inl rfl, _, rfl⟩
theorem witness_NoFaultUntilAnIllegalModeIsWritten :
    legalMode State.reset.regs.cpsr = true
    ∧ ∀ p ∈ [PortIn.wr .cpsr 0xD2, .rd .sp, .wr .cpsr 0xC0, .rd .sp].take 2, p.keepsLegalMode = true := by decide
theorem witness_ResetSlots : Slot.sp 4 ≠ .cpsr := by decide
theorem witness_SequencerEntersAnException :
    (decodeMode 0x80000092 = some .irq ∧ (bankIndex .irq).val = (3 : Fin 5).val + 1) ∧ decodeMode 0xD0 = some .user := by decide
theorem witness_SequencerReturnsToTheInterruptedMode :
    decodeMode 0x80000092 = some .irq ∧ (bankIndex .irq).val = (3 : Fin 5).val + 1 := by decide

end Sys2Proof.Tests
end

/-! The slots (10_state.md R19, R22, R31): how many there are, which of them an SPSR reference can name, and what can change one. -/

namespace Sys2Proof.Machine

/-- Every slot once, kind by kind, in the order and the numbers of R19. -/
def allSlots : List Slot :=
  (List.finRange 8).map .lo ++ (List.finRange 5).map .hiUsr ++ (List.finRange 5).map .hiFiq ++ [.pc]
    ++ (List.finRange 6).map .sp ++ (List.finRange 6).map .lr ++ (List.finRange 5).map .spsr ++ [.cpsr]

theorem length_allSlots : allSlots.length = 37 := rfl

theorem nodup_allSlots : allSlots.Nodup := by decide

theorem mem_allSlots (sl : Slot) : sl ∈ allSlots := by
  cases sl <;> simp [allSlots]

/-- Settles O15: `allSlots` lists the slots; the other two clauses are the laws of the register file. -/
theorem exactlyThirtySevenSlots : Obligations.ExactlyThirtySevenSlots :=
  ⟨⟨allSlots, length_allSlots, nodup_allSlots, mem_allSlots⟩, fun _ _ => regFile_ext, fun r sl sl' v => read_write r v sl sl'⟩

/-- Bank 0 has no SPSR: every legal mode is of bank 0, User or System, or of a bank `j + 1`. -/
theorem bankIndex_zero_or_succ (m : Mode) : (m = .user ∨ m = .system) ∨ ∃ j : Fin 5, (bankIndex m).val = j.val + 1 := by
  cases m with
  | user => exact .inl (.inl rfl)
  | system => exact .inl (.inr rfl)
  | fiq => exact .inr ⟨0, rfl⟩
  | supervisor => exact .inr ⟨1, rfl⟩
  | abort => exact .inr ⟨2, rfl⟩
  | irq => exact .inr ⟨3, rfl⟩
  | undefined => exact .inr ⟨4, rfl⟩

/-- An SPSR reference needs a legal mode. -/
theorem resolve_spsr_of_no_mode {w : Word} (h : decodeMode w = none) : resolve .spsr w = .error .invalidMachineState := by
  simp [resolve, resolveSpsr, h]

/-- Inversion of an SPSR reference: the slot is that of the live mode's bank `j + 1`. -/
theorem mode_of_resolve_spsr {w : Word} {sl : Slot} (h : resolve .spsr w = .ok sl) :
    ∃ m j, decodeMode w = some m ∧ sl = .spsr j ∧ (bankIndex m).val = j.val + 1 := by
  rcases hm : decodeMode w with _ | m
  · rw [resolve_spsr_of_no_mode hm] at h
    cases h
  · rcases bankIndex_zero_or_succ m with h0 | ⟨j, hj⟩
    · rw [resolve_spsr_of_bank_zero hm h0] at h
      cases h
    · rw [resolve_spsr_of_mode hm hj] at h
      cases h
      exact ⟨m, j, rfl, rfl, hj⟩

theorem bankIndex_eq_zero {m : Mode} (h : m = .user ∨ m = .system) : bankIndex m = 0 := by
  rcases h with rfl | rfl <;> rfl

/-- Settles O16, by the inversion of an SPSR reference and its refusal in the modes of bank 0. -/
theorem noSpsrForBankZero : Obligations.NoSpsrForBankZero :=
  ⟨fun _ _ => mode_of_resolve_spsr, fun _ _ h hm => ⟨bankIndex_eq_zero hm, resolve_spsr_of_bank_zero h hm⟩⟩

/-- A command changes a slot only if it is the write of a reference that resolves to that slot. -/
theorem write_of_exec_changes {i : Instr} {s t : State} {sl : Slot} (h : exec i s = .next t)
    (hne : t.regs.read sl ≠ s.regs.read sl) : ∃ ref, i = wrInstr ref ∧ resolve ref s.regs.cpsr = .ok sl := by
  rcases exec_next h with ⟨ref, sl', hw, hres, rfl⟩ | ⟨-, v, rfl⟩ | rfl
  · have hsl : sl = sl' := by
      by_contra hother
      exact hne (read_write_of_ne _ _ hother)
    subst hsl
    exact ⟨ref, eq_wrInstr_of_writeRef? hw, hres⟩
  · exact absurd rfl hne
  · exact absurd rfl hne

/-- Settles O36, by what a step can be: a reset, an idle cycle, which keeps the slots, or a command. -/
theorem slotsChangeOnlyByWriteOrReset : Obligations.SlotsChangeOnlyByWriteOrReset := by
  intro s t sl h hne
  rcases step_next h with ⟨hr, -⟩ | ⟨-, -, rfl⟩ | ⟨-, hv, u, hu, rfl⟩
  · exact .inl hr
  · exact absurd rfl hne
  · exact .inr ⟨hv, write_of_exec_changes hu hne⟩

end Sys2Proof.Machine

/-! Side effects (20_memory.md R38): what a command leaves unchanged, and what it does when it is given again. -/

namespace Sys2Proof.Machine

/-- A result that answers one state answers every state, and gives each the same response and nothing more. -/
theorem answer_of_answer_next {r : Except RegError Word} {s t : State} (h : answer r s = .next t) (s' : State) :
    answer r s' = .next { s' with resp := t.resp } := by
  rcases answer_next h with ⟨v, rfl, rfl⟩ | ⟨⟨ref, rfl⟩, rfl⟩ <;> rfl

theorem answer_next_regs {r : Except RegError Word} {s t : State} (h : answer r s = .next t) : t.regs = s.regs := by
  rcases answer_next h with ⟨v, -, rfl⟩ | ⟨-, rfl⟩ <;> rfl

/-- The response of a command that is no write and is not reserved is a function of the slots alone. -/
theorem exec_eq_answer_of_no_write {i : Instr} {s t : State} (hw : i.writeRef? = none) (h : exec i s = .next t) :
    ∃ f : RegFile → Except RegError Word, ∀ u : State, exec i u = answer (f u.regs) u := by
  rcases hr : i.readRef? with _ | ref
  · cases i with
    | nop ign => exact ⟨fun _ => .ok 0#32, fun _ => rfl⟩
    | mode ign => exact ⟨fun regs => codeData modeCode (currentMode regs), fun _ => rfl⟩
    | state ign => exact ⟨fun regs => codeData stateCode (currentState regs), fun _ => rfl⟩
    | reservedCmd5 ref => cases h
    | reservedCmd67 bits => cases h
    | reservedRd ref => cases h
    | reservedWr ref => cases h
    | rdLo | rdHi | rdSp | rdLr | rdPc | rdCpsr | rdSpsr => cases hr
    | wrLo | wrHi | wrSp | wrLr | wrPc | wrCpsr | wrSpsr => cases hw
  · rw [eq_rdInstr_of_readRef? hr]
    exact ⟨getRegister ref, exec_rdInstr ref⟩

/-- A command that is no write keeps the slots and gives its response wherever the slots are the same. -/
theorem exec_no_write {i : Instr} {s t : State} (hw : i.writeRef? = none) (h : exec i s = .next t) :
    t.regs = s.regs ∧ ∀ u : State, u.regs = s.regs → exec i u = .next { u with resp := t.resp } := by
  obtain ⟨f, hf⟩ := exec_eq_answer_of_no_write hw h
  rw [hf] at h
  refine ⟨answer_next_regs h, fun u hu => ?_⟩
  rw [hf, congrArg f hu]
  exact answer_of_answer_next h u

/-- A write through a reference that resolves changes that one slot. -/
theorem exec_wrInstr_ok {ref : RegRef} {s t : State} {sl : Slot} (h : exec (wrInstr ref) s = .next t)
    (hres : resolve ref s.regs.cpsr = .ok sl) : t = { s with regs := s.regs.write sl s.port.reqWdata }.respond .ok 0#32 := by
  rw [exec_wrInstr, writeRef_of_ok hres] at h
  cases h
  rfl

/-- A write through a reference that resolves to none answers as the error does. -/
theorem exec_wrInstr_error {ref : RegRef} {s : State} {e : RegError} (hres : resolve ref s.regs.cpsr = .error e) :
    exec (wrInstr ref) s = answer (.error e) s := by
  rw [exec_wrInstr, writeRef_of_error hres]
  rfl

/-- A write through a reference does not change what the reference resolves to: only the CPSR reference resolves to the CPSR slot, and it does
so under every status word. -/
theorem resolve_after_write {ref : RegRef} {r : RegFile} {sl : Slot} (h : resolve ref r.cpsr = .ok sl) (v : Word) :
    resolve ref (r.write sl v).cpsr = .ok sl := by
  by_cases hsl : sl = .cpsr
  · subst hsl
    rw [eq_cpsr_of_resolve h, resolve_cpsr]
  · rw [write_cpsr_of_ne r v hsl, h]

/-- A command performed again at once answers the state it answered. -/
theorem exec_again {i : Instr} {s t : State} (h : exec i s = .next t) : exec i t = .next t := by
  rcases hw : i.writeRef? with _ | ref
  · obtain ⟨hregs, hagain⟩ := exec_no_write hw h
    exact hagain t hregs
  · rw [eq_wrInstr_of_writeRef? hw] at h ⊢
    rcases hres : resolve ref s.regs.cpsr with e | sl
    · rw [exec_wrInstr_error hres] at h
      have hres' : resolve ref t.regs.cpsr = .error e := by rw [answer_next_regs h, hres]
      rw [exec_wrInstr_error hres']
      exact answer_of_answer_next h t
    · have ht := exec_wrInstr_ok h hres
      have hregs : t.regs = s.regs.write sl s.port.reqWdata := by rw [ht, respond_regs]
      have hres' : resolve ref t.regs.cpsr = .ok sl := by rw [hregs, resolve_after_write hres]
      rw [exec_wrInstr, writeRef_of_ok hres', hregs, (exec_next_port h).1, write_write_self, ht]
      rfl

/-- Settles O31, clause by clause: a command that is no write, a write by what its reference resolves to, and a repetition. -/
theorem commandsHaveNoOtherSideEffect : Obligations.CommandsHaveNoOtherSideEffect := by
  refine ⟨fun i s t hw h => ?_, fun i ref s t hw h => ?_, fun i s t h => ⟨exec_again h, exec_next_port h⟩⟩
  · obtain ⟨hregs, hresp⟩ := exec_no_write hw h
    exact ⟨hregs, fun s' hs' => ⟨_, hresp s' hs', rfl⟩⟩
  · rw [eq_wrInstr_of_writeRef? hw] at h
    refine ⟨fun sl hres => ?_, fun e hres => ?_⟩
    · rw [exec_wrInstr_ok h hres]
      exact ⟨read_write_self _ _ _, fun _ hne => read_write_of_ne _ _ hne⟩
    · rw [exec_wrInstr_error hres] at h
      exact answer_next_regs h

/-- Settles O40: the write of CPSR is the first cycle of the script, and the second cycle's reference is resolved under the CPSR it left. -/
theorem cpsrWriteGovernsTheNextCommand : Obligations.CpsrWriteGovernsTheNextCommand := by
  intro s v p l
  refine ⟨scripted (s.regs.write .cpsr v) ⟨.ok, 0#32⟩ (p :: l), step_scripted_wr (resolve_cpsr _), rfl, rfl, ?_, ?_⟩
  · rintro ref rfl
    exact ⟨fun sl h => ⟨_, step_scripted_rd h, rfl, rfl⟩, fun x h => ⟨_, step_scripted_rd_invalid h, rfl, rfl⟩,
      fun h => step_scripted_rd_fault h⟩
  · rintro ref d rfl
    exact ⟨fun sl h => ⟨_, step_scripted_wr h, read_write_self _ d sl, fun _ hne => read_write_of_ne (s.regs.write .cpsr v) d hne, rfl⟩,
      fun x h => ⟨_, step_scripted_wr_invalid h, rfl, rfl⟩, fun h => step_scripted_wr_fault h⟩

end Sys2Proof.Machine

/-! The decoder's family (40_decoder.md R62, R65, R66): the bank table, and the two queries of the live mode and state. -/

namespace Sys2Proof.Machine

/-- Settles O12: the table entry by entry; the bound is that of the table's type. -/
theorem bankIndexTable : Obligations.BankIndexTable :=
  ⟨⟨rfl, rfl, rfl, rfl, rfl, rfl, rfl⟩, fun m => (bankIndex m).isLt⟩

theorem currentMode_of_mode {r : RegFile} {m : Mode} (h : decodeMode r.cpsr = some m) : currentMode r = .ok m := by
  simp [currentMode, h]

theorem currentMode_of_no_mode {r : RegFile} (h : decodeMode r.cpsr = none) : currentMode r = .error .invalidMachineState := by
  simp [currentMode, h]

/-- The mode is only checked: under any legal one the live state is the decoded T bit. -/
theorem currentState_of_mode {r : RegFile} {m : Mode} (h : decodeMode r.cpsr = some m) :
    currentState r = .ok (decodeState r.cpsr) := by
  simp [currentState, h]

/-- The check of the mode comes first, although the state could be decoded (C2). -/
theorem currentState_of_no_mode {r : RegFile} (h : decodeMode r.cpsr = none) : currentState r = .error .invalidMachineState := by
  simp [currentState, h]

theorem exec_mode (ign : BitVec 5) (s : State) : exec (.mode ign) s = answer (codeData modeCode (currentMode s.regs)) s := rfl

theorem exec_state (ign : BitVec 5) (s : State) : exec (.state ign) s = answer (codeData stateCode (currentState s.regs)) s := rfl

section Queries

variable {α : Type} {n : Nat} (code : α → BitVec n) (s : State)

/-- A query that has a result answers OK with its code, zero-extended (R52). -/
theorem answer_codeData_ok (a : α) : answer (codeData code (.ok a)) s = .next (s.respond .ok ((code a).setWidth 32)) := rfl

/-- A query under an illegal mode field stops the run (R86). -/
theorem answer_codeData_no_mode : answer (codeData code (.error .invalidMachineState)) s = .fault .invalidMachineState := rfl

end Queries

/-- The state code as response data (R54). -/
theorem stateCode_setWidth (st : InstrState) : (stateCode st).setWidth 32 = if st = .thumb then 1 else 0 := by
  cases st with
  | arm => rfl
  | thumb => rfl

/-- Settles O28: MODE answers the live mode's code, and there is a live mode exactly where the mode field is legal. -/
theorem modeQuery : Obligations.ModeQuery := by
  refine fun s ign => ⟨fun m h => ?_, fun h => ?_⟩
  · rw [exec_mode, currentMode_of_mode h, answer_codeData_ok, State.respond]
  · rw [exec_mode, currentMode_of_no_mode h, answer_codeData_no_mode]

/-- Settles O29: STATE answers the decoded state's code under a legal mode, and faults where `current_state` does. -/
theorem stateQuery : Obligations.StateQuery := by
  refine fun s ign => ⟨fun m h => ?_, fun h => ?_⟩
  · rw [exec_state, currentState_of_mode h, answer_codeData_ok, stateCode_setWidth, State.respond]
  · rw [exec_state, currentState_of_no_mode h, answer_codeData_no_mode]

end Sys2Proof.Machine

/-! The banked references (41_access.md R71, R72, R75, R78, R79, R82): RD and WR of sp, lr and spsr, by what the reference resolves to. -/

namespace Sys2Proof.Machine

/-- SP and LR need a legal mode. -/
theorem resolve_sp_of_no_mode {w : Word} (h : decodeMode w = none) : resolve .sp w = .error .invalidMachineState := by
  simp [resolve, resolveBanked, h]

theorem resolve_lr_of_no_mode {w : Word} (h : decodeMode w = none) : resolve .lr w = .error .invalidMachineState := by
  simp [resolve, resolveBanked, h]

section Access

variable {ref : RegRef} {s : State} {sl : Slot} {e : RegError}

/-- A read through a reference that resolves answers the slot's word and changes only the response. -/
theorem exec_rdInstr_of_ok (h : resolve ref s.regs.cpsr = .ok sl) :
    exec (rdInstr ref) s = .next { s with resp := ⟨.ok, s.regs.read sl⟩ } := by
  rw [exec_rdInstr, readRef_of_ok h, State.respond]

/-- A read through a reference that resolves to none answers as the error does; `exec_wrInstr_error` says the same of a write. -/
theorem exec_rdInstr_error (h : resolve ref s.regs.cpsr = .error e) : exec (rdInstr ref) s = answer (.error e) s := by
  rw [exec_rdInstr, readRef_of_error h]
  rfl

/-- A write through a reference that resolves stores `req_wdata` verbatim in that slot and answers OK with data 0. -/
theorem exec_wrInstr_of_ok (h : resolve ref s.regs.cpsr = .ok sl) :
    exec (wrInstr ref) s = .next { s with regs := s.regs.write sl s.port.reqWdata, resp := ⟨.ok, 0⟩ } := by
  rw [exec_wrInstr, writeRef_of_ok h]
  rfl

end Access

/-- Settles O21: both references resolve to the live bank's slot under a legal mode, and to the fault under none. -/
theorem readSpAndLr : Obligations.ReadSpAndLr := fun _ =>
  ⟨fun _ h => ⟨exec_rdInstr_of_ok (ref := .sp) (resolve_sp_of_mode h), exec_rdInstr_of_ok (ref := .lr) (resolve_lr_of_mode h)⟩,
    fun h => ⟨exec_rdInstr_error (ref := .sp) (resolve_sp_of_no_mode h), exec_rdInstr_error (ref := .lr) (resolve_lr_of_no_mode h)⟩⟩

/-- Settles O22, by the three things an SPSR reference can resolve to: the slot of bank `j + 1`, an invalid access in bank 0, the fault. -/
theorem readSpsr : Obligations.ReadSpsr := fun _ =>
  ⟨fun _ _ h hj => exec_rdInstr_of_ok (ref := .spsr) (resolve_spsr_of_mode h hj),
    fun _ h hm => exec_rdInstr_error (ref := .spsr) (resolve_spsr_of_bank_zero h hm),
    fun h => exec_rdInstr_error (ref := .spsr) (resolve_spsr_of_no_mode h)⟩

/-- Settles O26: the references resolve as for RD, and the write goes to that one slot. -/
theorem writeSpAndLr : Obligations.WriteSpAndLr := fun _ =>
  ⟨fun _ h => ⟨exec_wrInstr_of_ok (ref := .sp) (resolve_sp_of_mode h), exec_wrInstr_of_ok (ref := .lr) (resolve_lr_of_mode h)⟩,
    fun h => ⟨exec_wrInstr_error (ref := .sp) (resolve_sp_of_no_mode h), exec_wrInstr_error (ref := .lr) (resolve_lr_of_no_mode h)⟩⟩

/-- Settles O27: the reference resolves as for RD, and an error leaves every slot as it was. -/
theorem writeSpsr : Obligations.WriteSpsr := fun _ =>
  ⟨fun _ _ h hj => exec_wrInstr_of_ok (ref := .spsr) (resolve_spsr_of_mode h hj),
    fun _ h hm => exec_wrInstr_error (ref := .spsr) (resolve_spsr_of_bank_zero h hm),
    fun h => exec_wrInstr_error (ref := .spsr) (resolve_spsr_of_no_mode h)⟩

end Sys2Proof.Machine

/-! The families of commands (30_encoding.md R47, R55): every command is NOP, MODE, STATE, an RD or a WR of a reference, or a reserved row, so
that what holds of each family holds of every command. -/

namespace Sys2Proof

/-- The family a command belongs to. -/
inductive Instr.Family : Instr → Prop
  | nop (ign : BitVec 5) : Family (.nop ign)
  | mode (ign : BitVec 5) : Family (.mode ign)
  | state (ign : BitVec 5) : Family (.state ign)
  | rd (ref : RegRef) : Family (rdInstr ref)
  | wr (ref : RegRef) : Family (wrInstr ref)
  | reserved {i : Instr} (h : i.isReserved = true) : Family i

theorem family_of_readRef? {i : Instr} {ref : RegRef} (h : i.readRef? = some ref) : i.Family :=
  eq_rdInstr_of_readRef? h ▸ .rd ref

theorem family_of_writeRef? {i : Instr} {ref : RegRef} (h : i.writeRef? = some ref) : i.Family :=
  eq_wrInstr_of_writeRef? h ▸ .wr ref

theorem Instr.family (i : Instr) : i.Family := by
  cases i with
  | nop ign => exact .nop ign
  | mode ign => exact .mode ign
  | state ign => exact .state ign
  | rdLo | rdHi | rdSp | rdLr | rdPc | rdCpsr | rdSpsr => exact family_of_readRef? rfl
  | wrLo | wrHi | wrSp | wrLr | wrPc | wrCpsr | wrSpsr => exact family_of_writeRef? rfl
  | reservedCmd5 | reservedCmd67 | reservedRd | reservedWr => exact .reserved rfl

@[simp] theorem isReserved_rdInstr (ref : RegRef) : (rdInstr ref).isReserved = false := by cases ref <;> rfl
@[simp] theorem isReserved_wrInstr (ref : RegRef) : (wrInstr ref).isReserved = false := by cases ref <;> rfl

/-- The words of `cmd` = 0b110 and 0b111 decode to their reserved row with their own low bits (R55). -/
theorem decode_encode_reservedCmd67 (bits : BitVec 6) : decode (encode (.reservedCmd67 bits)) = .reservedCmd67 bits := by
  revert bits; decide

/-- A reserved RD or WR whose code names no register is not taken for a read or a write (R55). -/
theorem decode_encode_reserved {i : Instr} (h : i.isReserved = true) (hwf : i.wellFormed = true) : decode (encode i) = i := by
  cases i with
  | reservedCmd5 ref => simp [encode, decode]
  | reservedCmd67 bits => exact decode_encode_reservedCmd67 bits
  | reservedRd ref => rw [encode, decode_rd, decodeRd, (refOfCode_eq_none_iff ref).2 hwf]
  | reservedWr ref => rw [encode, decode_wr, decodeWr, (refOfCode_eq_none_iff ref).2 hwf]
  | _ => cases h

/-- Settles O1, family by family: only a reserved RD or WR needs that its code names no register. -/
theorem encodeThenDecodeGivesTheCommand : Obligations.EncodeThenDecodeGivesTheCommand := by
  intro i hwf
  cases i.family with
  | nop ign => simp [encode, decode]
  | mode ign => simp [encode, decode]
  | state ign => simp [encode, decode]
  | rd ref => exact decode_encode_rdInstr ref
  | wr ref => exact decode_encode_wrInstr ref
  | reserved h => exact decode_encode_reserved h hwf

theorem encode_decode : ∀ w : CmdWord, encode (decode w) = w := by decide

theorem wellFormed_decode : ∀ w : CmdWord, (decode w).wellFormed = true := by decide

/-- Settles O2: both facts are checked word by word, all 256 of them. -/
theorem decodeThenEncodeGivesTheWord : Obligations.DecodeThenEncodeGivesTheWord :=
  fun w => ⟨encode_decode w, wellFormed_decode w⟩

/-- Settles O3, word by word, all 256 of them. -/
theorem reservedWordsAreExactly : Obligations.ReservedWordsAreExactly := by
  unfold Obligations.ReservedWordsAreExactly
  decide

/-- Settles O4: each sample is a decoding that computes. -/
theorem sampleWordsDecode : Obligations.SampleWordsDecode := by
  unfold Obligations.SampleWordsDecode
  decide

end Sys2Proof

/-! What a command answers, family by family (60_exceptions.md R86 to R88): a reserved row is refused, every other command answers the next
state or faults, and it faults only under an illegal mode field. -/

namespace Sys2Proof.Machine

/-- A reserved row is refused with its own word, in every state (R55, R88). -/
theorem exec_reserved {i : Instr} (h : i.isReserved = true) (s : State) : exec i s = .refused (.reservedEncoding (encode i)) := by
  cases i with
  | reservedCmd5 | reservedCmd67 | reservedRd | reservedWr => rfl
  | _ => cases h

/-- An illegal mode field is the only reason for INVALID_MACHINE_STATE (R86). -/
theorem decodeMode_of_resolve_fault {ref : RegRef} {w : Word} (h : resolve ref w = .error .invalidMachineState) : decodeMode w = none := by
  rcases hm : decodeMode w with _ | m
  · rfl
  · cases ref with
    | low n => cases h
    | pc => cases h
    | cpsr => cases h
    | sp => rw [resolve_sp_of_mode hm] at h; cases h
    | lr => rw [resolve_lr_of_mode hm] at h; cases h
    | spsr =>
      rcases bankIndex_zero_or_succ m with h0 | ⟨j, hj⟩
      · rw [resolve_spsr_of_bank_zero hm h0] at h; cases h
      · rw [resolve_spsr_of_mode hm hj] at h; cases h
    | high n =>
      rcases ht : decodeState w with _ | _
      · rw [resolve_high_of_mode n ht hm] at h; cases h
      · rw [resolve_high_of_thumb n ht] at h; cases h

/-- Inversion of a fault: the answer was the error of an illegal mode field. -/
theorem answer_fault {r : Except RegError Word} {s : State} {f : Fault} (h : answer r s = .fault f) :
    r = .error .invalidMachineState := by
  rcases r with (_ | _) | v
  · rfl
  · cases h
  · cases h

theorem exec_rdInstr_fault {ref : RegRef} {s : State} {f : Fault} (h : exec (rdInstr ref) s = .fault f) :
    resolve ref s.regs.cpsr = .error .invalidMachineState := by
  rcases hres : resolve ref s.regs.cpsr with e | sl
  · rw [exec_rdInstr_error hres] at h
    cases answer_fault h
    rfl
  · rw [exec_rdInstr_of_ok hres] at h
    cases h

theorem exec_wrInstr_fault {ref : RegRef} {s : State} {f : Fault} (h : exec (wrInstr ref) s = .fault f) :
    resolve ref s.regs.cpsr = .error .invalidMachineState := by
  rcases hres : resolve ref s.regs.cpsr with e | sl
  · rw [exec_wrInstr_error hres] at h
    cases answer_fault h
    rfl
  · rw [exec_wrInstr_of_ok hres] at h
    cases h

/-- Inversion of a command's fault: the mode field is illegal (R86). -/
theorem exec_fault {i : Instr} {s : State} {f : Fault} (h : exec i s = .fault f) : decodeMode s.regs.cpsr = none := by
  cases i.family with
  | nop ign => cases h
  | rd ref => exact decodeMode_of_resolve_fault (exec_rdInstr_fault h)
  | wr ref => exact decodeMode_of_resolve_fault (exec_wrInstr_fault h)
  | reserved hres => rw [exec_reserved hres] at h; cases h
  | mode ign =>
    rcases hm : decodeMode s.regs.cpsr with _ | m
    · rfl
    · rw [(modeQuery s ign).1 m hm] at h; cases h
  | state ign =>
    rcases hm : decodeMode s.regs.cpsr with _ | m
    · rfl
    · rw [(stateQuery s ign).1 m hm] at h; cases h

theorem answer_ne_refused {r : Except RegError Word} {s : State} {x : Refusal} : answer r s ≠ .refused x := by
  rcases r with (_ | _) | v <;> exact nofun

/-- Inversion of a refusal: the command is a reserved row (R88). -/
theorem exec_refused {i : Instr} {s : State} {x : Refusal} (h : exec i s = .refused x) : i.isReserved = true := by
  cases i.family with
  | nop ign => cases h
  | mode ign => exact absurd h answer_ne_refused
  | state ign => exact absurd h answer_ne_refused
  | rd ref => exact absurd ((exec_rdInstr ref s).symm.trans h) answer_ne_refused
  | reserved hres => exact hres
  | wr ref =>
    rcases hres : resolve ref s.regs.cpsr with e | sl
    · rw [exec_wrInstr_error hres] at h
      exact absurd h answer_ne_refused
    · rw [exec_wrInstr_of_ok hres] at h
      cases h

/-- Settles O30: each row is refused with the word it encodes to. -/
theorem reservedWordsAreRefused : Obligations.ReservedWordsAreRefused := fun s =>
  ⟨fun _ => exec_reserved rfl s, fun _ => exec_reserved rfl s, fun _ => exec_reserved rfl s, fun _ => exec_reserved rfl s⟩

end Sys2Proof.Machine

/-! What a step answers (30_encoding.md R44, R101): a reset, an idle cycle, or the presented command's outcome, with the pins moved on. -/

namespace Sys2Proof.Machine

theorem step_of_reset {s : State} (hr : s.port.rst = true) : step s = .next s.resetCycle.advance := by
  simp [step, hr]

theorem step_of_idle {s : State} (hr : s.port.rst = false) (hv : s.port.reqValid = false) : step s = .next s.idleCycle.advance := by
  simp [step, hr, hv]

/-- Every step that goes on moves the pins by one cycle and does nothing else to them (log 1, log 2). -/
theorem step_next_pins {s t : State} (h : step s = .next t) : t.port = s.later.headD .idle ∧ t.later = s.later.tail := by
  rcases step_next h with ⟨-, rfl⟩ | ⟨-, -, rfl⟩ | ⟨-, -, u, hu, rfl⟩
  · exact ⟨rfl, rfl⟩
  · exact ⟨rfl, rfl⟩
  · rw [advance_port, advance_later, (exec_next_port hu).2]
    exact ⟨rfl, rfl⟩

/-- A step that stops is a command that stops. -/
theorem step_stops {s : State} (h : ∀ t, step s ≠ .next t) :
    s.port.rst = false ∧ s.port.reqValid = true ∧ step s = exec s.command s := by
  rcases hr : s.port.rst with _ | _
  · rcases hv : s.port.reqValid with _ | _
    · exact absurd (step_of_idle hr hv) (h _)
    · refine ⟨rfl, rfl, ?_⟩
      rw [step_of_command hr hv] at h ⊢
      rcases he : exec s.command s with u | f | r
      · rw [he] at h
        exact absurd rfl (h _)
      · rfl
      · rfl
  · exact absurd (step_of_reset hr) (h _)

/-- No step faults under a legal mode (R86). -/
theorem step_ne_fault {s : State} (hm : legalMode s.regs.cpsr = true) (f : Fault) : step s ≠ .fault f := by
  intro h
  obtain ⟨-, -, he⟩ := step_stops (s := s) (by rw [h]; exact nofun)
  have hnone := exec_fault (he.symm.trans h)
  simp [legalMode, hnone] at hm

/-- A step is refused only where a reserved word is presented (R88). -/
theorem step_refused {s : State} {x : Refusal} (h : step s = .refused x) :
    s.port.rst = false ∧ s.port.reqValid = true ∧ s.command.isReserved = true := by
  obtain ⟨hr, hv, he⟩ := step_stops (s := s) (by rw [h]; exact nofun)
  exact ⟨hr, hv, exec_refused (he.symm.trans h)⟩

/-- What can change a slot in a step, and to what (R31): a reset, or a presented WR whose reference resolves to the slot. -/
theorem step_changes_slot {s t : State} {sl : Slot} (h : step s = .next t) (hne : t.regs.read sl ≠ s.regs.read sl) :
    (s.port.rst = true ∧ t.regs = RegFile.reset) ∨
    (s.port.rst = false ∧ s.port.reqValid = true ∧
      ∃ ref, s.command = wrInstr ref ∧ resolve ref s.regs.cpsr = .ok sl ∧ t.regs.read sl = s.port.reqWdata) := by
  rcases step_next h with ⟨hr, rfl⟩ | ⟨-, -, rfl⟩ | ⟨hr, hv, u, hu, rfl⟩
  · exact .inl ⟨hr, rfl⟩
  · exact absurd rfl hne
  · obtain ⟨ref, hi, hres⟩ := write_of_exec_changes hu hne
    rw [hi] at hu
    refine .inr ⟨hr, hv, ref, hi, hres, ?_⟩
    rw [exec_wrInstr_ok hu hres]
    exact read_write_self _ _ _

/-- Settles O6: the step is the command's outcome, then the rising edge, and the command left the pins of later cycles as they were. -/
theorem stepRunsTheDecodedCommand : Obligations.StepRunsTheDecodedCommand := by
  intro s i hr hv hi
  have hstep : step s = thenAdvance (exec i s) := by rw [step_of_command hr hv, State.command, hi]
  refine ⟨fun t ht => ?_, fun f hf => ?_, fun r hr => ?_⟩
  · rw [hstep, ht, ← (exec_next_port ht).2]
    rfl
  · rw [hstep, hf]
    rfl
  · rw [hstep, hr]
    rfl

/-- Settles O5: the placed word is the command of the present cycle. -/
theorem placedWordRunsNext : Obligations.PlacedWordRunsNext := by
  intro s w
  have hw : BitVec.ofNat 8 w.toNat = w := by simp
  refine ⟨by simp [decodeTableWord, w.isLt], rfl, rfl, ?_⟩
  rw [State.withFetchWord, hw, step_of_command rfl rfl]
  rfl

/-- Settles O7. -/
theorem idleCycleChangesNothing : Obligations.IdleCycleChangesNothing := fun _ => step_of_idle

/-- Settles O8: the cycle loads `RegFile.reset`, whose slots are known one by one. -/
theorem resetCycleLoadsEverySlot : Obligations.ResetCycleLoadsEverySlot := fun s hr =>
  ⟨s.resetCycle.advance, step_of_reset hr, rfl, rfl, rfl, rfl, fun sl hsl => (read_reset sl).trans (if_neg hsl)⟩

/-- Settles O52: the slots of `RegFile.reset`, one by one. -/
theorem resetSlots : Obligations.ResetSlots := ⟨rfl, fun sl hsl => (read_reset sl).trans (if_neg hsl)⟩

end Sys2Proof.Machine

/-! Hidden state (10_state.md R26): two states that agree on the selected slots go the same way. -/

namespace Sys2Proof.Machine

/-- The outcomes from `s` and `s'` go the same way: the same stop, or two states with the same response and the CPSR of `s` that agree on what that
CPSR selects, and each with its hidden slots as they were. -/
inductive SameWay (s s' : State) : StepResult → StepResult → Prop
  | next {t t' : State} (resp : t'.resp = t.resp) (cpsr : t.regs.cpsr = s.regs.cpsr) (cpsr' : t'.regs.cpsr = s.regs.cpsr)
      (agree : AgreeOnSelected s.regs.cpsr t.regs t'.regs)
      (hidden : ∀ sl, ¬ Selects s.regs.cpsr sl → t.regs.read sl = s.regs.read sl ∧ t'.regs.read sl = s'.regs.read sl) :
      SameWay s s' (.next t) (.next t')
  | fault (f : Fault) : SameWay s s' (.fault f) (.fault f)
  | refused (r : Refusal) : SameWay s s' (.refused r) (.refused r)

/-- The rising edge moves only the pins. -/
theorem SameWay.thenAdvance {s s' : State} {o o' : StepResult} (h : SameWay s s' o o') :
    SameWay s s' (thenAdvance o) (thenAdvance o') := by
  cases h with
  | next resp cpsr cpsr' agree hidden => exact .next resp cpsr cpsr' agree hidden
  | fault f => exact .fault f
  | refused r => exact .refused r

/-- A read sees selected slots only. -/
theorem getRegister_congr {a b : RegFile} (hcpsr : b.cpsr = a.cpsr) (hagree : AgreeOnSelected a.cpsr a b) (ref : RegRef) :
    getRegister ref b = getRegister ref a := by
  rw [getRegister, getRegister, hcpsr]
  rcases h : resolve ref a.cpsr with e | sl
  · rfl
  · exact congrArg Except.ok (hagree sl ⟨ref, h⟩).symm

section Twins

variable {s s' : State} (hcpsr : s'.regs.cpsr = s.regs.cpsr) (hagree : AgreeOnSelected s.regs.cpsr s.regs s'.regs)

include hcpsr hagree

/-- Where the slots stay, the same response is all there is to show. -/
theorem sameWay_of_regs {t t' : State} (hresp : t'.resp = t.resp) (ht : t.regs = s.regs) (ht' : t'.regs = s'.regs) :
    SameWay s s' (.next t) (.next t') :=
  .next hresp (by rw [ht]) (by rw [ht', hcpsr]) (by rw [ht, ht']; exact hagree) fun _ _ => ⟨by rw [ht], by rw [ht']⟩

theorem sameWay_answer (r : Except RegError Word) : SameWay s s' (answer r s) (answer r s') := by
  rcases r with (_ | _) | v
  · exact .fault _
  · exact sameWay_of_regs hcpsr hagree rfl rfl rfl
  · exact sameWay_of_regs hcpsr hagree rfl rfl rfl

/-- The same value goes to the same selected slot, which is not a hidden one. -/
theorem sameWay_write {ref : RegRef} {sl : Slot} (hres : resolve ref s.regs.cpsr = .ok sl) (hsl : sl ≠ .cpsr) (v : Word) :
    SameWay s s' (.next { s with regs := s.regs.write sl v, resp := ⟨.ok, 0⟩ })
      (.next { s' with regs := s'.regs.write sl v, resp := ⟨.ok, 0⟩ }) := by
  refine .next rfl (write_cpsr_of_ne _ v hsl) ((write_cpsr_of_ne _ v hsl).trans hcpsr) (fun sl' hsel => ?_) (fun sl' hhid => ?_)
  · rw [read_write, read_write, hagree sl' hsel]
  · have hne : sl' ≠ sl := by
      rintro rfl
      exact hhid ⟨ref, hres⟩
    exact ⟨read_write_of_ne _ v hne, read_write_of_ne _ v hne⟩

theorem sameWay_exec {i : Instr} (hport : s'.port = s.port) (hi : i ≠ .wrCpsr) : SameWay s s' (exec i s) (exec i s') := by
  cases i.family with
  | nop ign => exact sameWay_answer hcpsr hagree (.ok 0#32)
  | mode ign =>
    rw [exec_mode, exec_mode, currentMode, currentMode, hcpsr]
    exact sameWay_answer hcpsr hagree _
  | state ign =>
    rw [exec_state, exec_state, currentState, currentState, hcpsr]
    exact sameWay_answer hcpsr hagree _
  | rd ref =>
    rw [exec_rdInstr, exec_rdInstr, readRef, readRef, getRegister_congr hcpsr hagree]
    exact sameWay_answer hcpsr hagree _
  | wr ref =>
    rcases hres : resolve ref s.regs.cpsr with e | sl
    · rw [exec_wrInstr_error hres, exec_wrInstr_error (hcpsr ▸ hres)]
      exact sameWay_answer hcpsr hagree _
    · have hsl : sl ≠ .cpsr := by
        rintro rfl
        rw [eq_cpsr_of_resolve hres] at hi
        exact hi rfl
      rw [exec_wrInstr_of_ok hres, exec_wrInstr_of_ok (hcpsr ▸ hres), congrArg PortIn.reqWdata hport]
      exact sameWay_write hcpsr hagree hres hsl _
  | reserved h =>
    rw [exec_reserved h, exec_reserved h]
    exact .refused _

theorem sameWay_step (hport : s'.port = s.port) (hr : s.port.rst = false) (hi : ¬ (s.port.reqValid = true ∧ s.command = .wrCpsr)) :
    SameWay s s' (step s) (step s') := by
  rcases hv : s.port.reqValid with _ | _
  · rw [step_of_idle hr hv, step_of_idle (hport ▸ hr) (hport ▸ hv)]
    exact sameWay_of_regs hcpsr hagree rfl rfl rfl
  · have hcommand : s'.command = s.command := by rw [State.command, State.command, hport]
    rw [step_of_command hr hv, step_of_command (hport ▸ hr) (hport ▸ hv), hcommand]
    exact (sameWay_exec hcpsr hagree hport fun h => hi ⟨hv, h⟩).thenAdvance

end Twins

/-- Settles O41: the two steps go the same way. -/
theorem hiddenSlotsKeepAndDoNotShow : Obligations.HiddenSlotsKeepAndDoNotShow := by
  intro s s' hport _ hcpsr hagree hr hi
  have hsame := sameWay_step hcpsr hagree hport hr hi
  generalize step s = o, step s' = o' at hsame
  cases hsame with
  | next resp cpsr cpsr' agree hidden =>
    refine ⟨fun t ht => ?_, nofun, nofun⟩
    cases ht
    exact ⟨_, rfl, resp, cpsr, cpsr', agree, hidden⟩
  | fault f => exact ⟨nofun, fun _ h => h, nofun⟩
  | refused r => exact ⟨nofun, nofun, fun _ h => h⟩

end Sys2Proof.Machine

/-! What may change the program counter and the status register (10_state.md R23, 60_exceptions.md R98), and what a run's responses can be. -/

namespace Sys2Proof.Machine

/-- Only the PC reference names the PC slot. -/
theorem eq_pc_of_resolve {ref : RegRef} {w : Word} (h : resolve ref w = .ok .pc) : ref = .pc := by
  cases ref with
  | low n => cases h
  | pc => rfl
  | cpsr => cases h
  | spsr =>
    obtain ⟨_, _, _, hsl, -⟩ := mode_of_resolve_spsr h
    cases hsl
  | sp => simp only [resolve, resolveBanked] at h; split at h <;> cases h
  | lr => simp only [resolve, resolveBanked] at h; split at h <;> cases h
  | high n => simp only [resolve, resolveHigh] at h; split at h <;> (try split at h) <;> cases h

/-- Settles O37: the change of the PC slot is a reset, or a WR of the one reference that resolves to it. -/
theorem pcChangesOnlyByWritePcOrReset : Obligations.PcChangesOnlyByWritePcOrReset := by
  intro s t h hne
  rcases step_changes_slot (sl := .pc) h hne with ⟨hr, -⟩ | ⟨-, hv, ref, hi, hres, hval⟩
  · exact .inl hr
  · rw [eq_pc_of_resolve hres] at hi
    exact .inr ⟨hv, hi, hval⟩

/-- Settles O38: the change of the CPSR slot is a reset, or a WR of the one reference that resolves to it. -/
theorem modeChangesOnlyByWriteCpsrOrReset : Obligations.ModeChangesOnlyByWriteCpsrOrReset := by
  intro s t h hne
  rcases step_changes_slot (sl := .cpsr) h hne with ⟨hr, hregs⟩ | ⟨hr, hv, ref, hi, hres, hval⟩
  · rw [hregs]
    exact .inl ⟨hr, rfl, rfl⟩
  · rw [eq_cpsr_of_resolve hres] at hi
    exact .inr ⟨hr, hv, hi, hval⟩

/-- Settles O49: a step that goes on leaves the response of a reset or idle cycle, of a command that succeeded, or INVALID_ACCESS with data 0. -/
theorem shownResponsesAreKept : Obligations.ShownResponsesAreKept := by
  intro s t _ h
  rcases step_next h with ⟨-, rfl⟩ | ⟨-, -, rfl⟩ | ⟨-, -, u, hu, rfl⟩
  · exact .inl rfl
  · exact .inl rfl
  · rcases exec_next hu with ⟨_, _, -, -, rfl⟩ | ⟨-, v, rfl⟩ | rfl
    · exact .inl rfl
    · exact .inl rfl
    · exact .inr rfl

end Sys2Proof.Machine

/-! Sessions under a legal mode (70_reset_and_hazards.md R102): what keeps the mode legal, and that no fault comes while it is. -/

namespace Sys2Proof.Machine

/-- A step keeps the mode legal unless its input writes an illegal mode field to CPSR. -/
theorem step_keeps_legalMode {s t : State} (hm : legalMode s.regs.cpsr = true) (hp : s.port.keepsLegalMode = true) (h : step s = .next t) :
    legalMode t.regs.cpsr = true := by
  by_cases hne : t.regs.cpsr = s.regs.cpsr
  · rw [hne, hm]
  · rcases modeChangesOnlyByWriteCpsrOrReset s t h hne with ⟨-, hsup, -⟩ | ⟨hr, hv, hi, hval⟩
    · simp [legalMode, hsup]
    · rw [State.command] at hi
      rw [hval]
      simpa [PortIn.keepsLegalMode, hr, hv, hi] using hp

/-- A harmless input leaves no illegal mode behind. -/
theorem keepsLegalMode_of_harmless {p : PortIn} (h : p.harmless = true) : p.keepsLegalMode = true := by
  simp only [PortIn.harmless, PortIn.keepsLegalMode, Bool.or_eq_true, Bool.and_eq_true] at h ⊢
  tauto

/-- A step is not refused while its input is harmless. -/
theorem step_ne_refused {s : State} (hp : s.port.harmless = true) (x : Refusal) : step s ≠ .refused x := by
  intro h
  obtain ⟨hr, hv, hi⟩ := step_refused h
  rw [State.command] at hi
  simp [PortIn.harmless, hr, hv, hi] at hp

/-- The inputs after the rising edge are those still to come, or idle pins. -/
theorem mem_inputs_after {p : PortIn} {l : List PortIn} (h : p ∈ l.headD .idle :: l.tail) : p ∈ l ∨ p = .idle := by
  cases l with
  | nil => exact .inr (by simpa using h)
  | cons q l => exact .inl h

/-- Settles O46: the mode stays legal, and the inputs still to come were to come before, or are idle. -/
theorem harmlessSessionIsKept : Obligations.HarmlessSessionIsKept := by
  rintro s t ⟨hm, hin⟩ h
  have hp : s.port.harmless = true := hin s.port (by simp)
  refine ⟨step_keeps_legalMode hm (keepsLegalMode_of_harmless hp) h, fun p hmem => ?_⟩
  obtain ⟨hport, hlater⟩ := step_next_pins h
  rw [hport, hlater] at hmem
  rcases mem_inputs_after hmem with hl | rfl
  · exact hin p (List.mem_cons_of_mem _ hl)
  · rfl

/-- A harmless session can always take its next step. -/
theorem harmlessSession_steps {s : State} (hs : HarmlessSession s) : ∃ t, step s = .next t := by
  obtain ⟨hm, hin⟩ := hs
  rcases h : step s with t | f | x
  · exact ⟨t, rfl⟩
  · exact absurd h (step_ne_fault hm f)
  · exact absurd h (step_ne_refused (hin s.port (by simp)) x)

/-- Settles O47, by induction on the number of steps: the session takes one and stays harmless. -/
theorem harmlessSessionNeverStops : Obligations.HarmlessSessionNeverStops := by
  intro k
  induction k with
  | zero => exact fun s _ => ⟨s, run_zero s⟩
  | succ k ih =>
    intro s hs
    obtain ⟨t, ht⟩ := harmlessSession_steps hs
    rw [RunsWell, run_succ_of_next ht]
    exact ih t (harmlessSessionIsKept s t hs ht)

/-- Settles O48: Supervisor is a legal mode, and the pins at reset are idle. -/
theorem resetIsHarmless : Obligations.ResetIsHarmless := ⟨rfl, by decide⟩

/-- After a step of a script comes the rest of the script. -/
theorem eq_withScript_of_step {s t : State} {l : List PortIn} (h : step (s.withScript l) = .next t) : t = t.withScript l.tail := by
  obtain ⟨_, _, _, _⟩ := t
  obtain ⟨rfl, rfl⟩ := step_next_pins h
  rfl

theorem run_succ_of_fault {k : Nat} {s : State} {f : Fault} (h : step s = .fault f) : Host.Core.run core (k + 1) s = .fault f := by
  have h' : core.step s = .fault f := h
  simp only [Host.Core.run, h']

theorem run_succ_of_refused {k : Nat} {s : State} {x : Refusal} (h : step s = .refused x) :
    Host.Core.run core (k + 1) s = .refused x := by
  have h' : core.step s = .refused x := h
  simp only [Host.Core.run, h']

/-- A script whose first `k + 1` inputs are among the kept ones starts with one, and its rest has `k`. -/
theorem keepsLegalMode_of_take_succ {k : Nat} {l : List PortIn} (h : ∀ p ∈ l.take (k + 1), p.keepsLegalMode = true) :
    (l.headD .idle).keepsLegalMode = true ∧ ∀ p ∈ l.tail.take k, p.keepsLegalMode = true := by
  cases l with
  | nil => exact ⟨rfl, by simp⟩
  | cons q l => exact List.forall_mem_cons.1 h

/-- Settles O50, by induction on the number of steps: a step does not fault under a legal mode, and its input keeps the mode legal for the rest of the
script; a refused step ends the run without a fault. -/
theorem noFaultUntilAnIllegalModeIsWritten : Obligations.NoFaultUntilAnIllegalModeIsWritten := by
  intro k
  induction k with
  | zero => exact fun _ _ _ _ _ => nofun
  | succ k ih =>
    intro s l hm hl f
    obtain ⟨hhead, htail⟩ := keepsLegalMode_of_take_succ hl
    rcases h : step (s.withScript l) with t | f' | x
    · rw [run_succ_of_next h, eq_withScript_of_step h]
      exact ih t l.tail (step_keeps_legalMode (s := s.withScript l) hm hhead h) htail f
    · exact absurd h (step_ne_fault (s := s.withScript l) hm f')
    · rw [run_succ_of_refused h]
      exact nofun

end Sys2Proof.Machine

/-! The decoder's functions and ports (40_decoder.md R59 to R63, 30_encoding.md R45), and what they say at reset (70_reset_and_hazards.md R102). -/

namespace Sys2Proof.Machine

/-- Settles O9: each mode is decoded exactly from its own pattern. -/
theorem legalPatternsDecode : Obligations.LegalPatternsDecode := fun w =>
  ⟨decodeMode_eq_some_iff w .user, decodeMode_eq_some_iff w .fiq, decodeMode_eq_some_iff w .irq, decodeMode_eq_some_iff w .supervisor,
    decodeMode_eq_some_iff w .abort, decodeMode_eq_some_iff w .undefined, decodeMode_eq_some_iff w .system⟩

/-- The mode-field values that are no pattern of R59 (R60). -/
def illegalPatterns : List (BitVec 5) :=
  [0x00, 0x01, 0x02, 0x03, 0x04, 0x05, 0x06, 0x07, 0x08, 0x09, 0x0A, 0x0B, 0x0C, 0x0D, 0x0E, 0x0F,
    0x14, 0x15, 0x16, 0x18, 0x19, 0x1A, 0x1C, 0x1D, 0x1E]

/-- Every value of the field is the pattern of a mode or one of the illegal ones. -/
theorem modePattern_or_illegal : ∀ f : BitVec 5, (∃ m, modePattern m = f) ∨ f ∈ illegalPatterns := by
  have key : ∀ f : BitVec 5, f ∈ [Mode.user, .fiq, .irq, .supervisor, .abort, .undefined, .system].map modePattern ∨ f ∈ illegalPatterns := by
    decide
  exact fun f => (key f).imp_left fun h => (List.mem_map.1 h).imp fun _ => And.right

theorem modePattern_not_illegal (m : Mode) : modePattern m ∉ illegalPatterns := by
  cases m <;> decide

theorem decodeMode_eq_none_iff (w : Word) : decodeMode w = none ↔ modeField w ∈ illegalPatterns := by
  rcases hm : decodeMode w with _ | m
  · rcases modePattern_or_illegal (modeField w) with ⟨m, hf⟩ | hf
    · rw [(decodeMode_eq_some_iff w m).2 hf.symm] at hm
      cases hm
    · exact iff_of_true rfl hf
  · rw [(decodeMode_eq_some_iff w m).1 hm]
    exact iff_of_false nofun (modePattern_not_illegal m)

/-- Settles O10: the illegal values are those of no mode's pattern, and both queries need a mode. -/
theorem illegalPatternsDecodeToNoMode : Obligations.IllegalPatternsDecodeToNoMode :=
  ⟨decodeMode_eq_none_iff, fun s ign h => ⟨(modeQuery s ign).2 h, (stateQuery s ign).2 h⟩⟩

/-- Settles O11: Thumb is bit 5, so equal bits give equal states. -/
theorem stateBitDecodes : Obligations.StateBitDecodes := by
  refine fun w => ⟨(decodeState_eq_arm_iff w).2, (decodeState_eq_thumb_iff w).2, fun w' h => ?_⟩
  rcases hs : decodeState w with _ | _
  · rwa [decodeState_eq_arm_iff, h, ← decodeState_eq_arm_iff]
  · rwa [decodeState_eq_thumb_iff, h, ← decodeState_eq_thumb_iff]

/-- Settles O13: each port is the projection it is named after. -/
theorem fieldProjections : Obligations.FieldProjections := fun _ => ⟨rfl, rfl, rfl, rfl, rfl, rfl, rfl, rfl⟩

/-- Settles O14: the ports under a decoded mode and under none; a bank index fits its three bits. -/
theorem decoderPorts : Obligations.DecoderPorts := by
  refine fun s => ⟨fun m h => ?_, fun h => ?_, rfl⟩
  · have hlt : (bankIndex m).val < 2 ^ 3 := Nat.lt_trans (bankIndex m).isLt (by decide)
    refine ⟨by simp [State.outputs, fieldOutputs, h], by simp [State.outputs, fieldOutputs, modeCodePort, h], ?_⟩
    simp only [State.outputs, fieldOutputs, bankIdxPort, h, BitVec.toNat_ofNat, Nat.mod_eq_of_lt hlt]
  · simp [State.outputs, fieldOutputs, modeCodePort, bankIdxPort, h]

/-- Settles O51: the fields of 0xD3, and the two queries under the mode they decode to. -/
theorem resetIsSupervisorArmMasked : Obligations.ResetIsSupervisorArmMasked :=
  ⟨rfl, rfl, rfl, rfl, fun ign => (modeQuery State.reset ign).1 .supervisor rfl, fun ign => (stateQuery State.reset ign).1 .supervisor rfl⟩

end Sys2Proof.Machine

/-! NOP and the references that every mode shares or FIQ alone has its own of (41_access.md R68 to R70, R73, R74, R76, R77, R80, R81), by what the
reference resolves to. -/

namespace Sys2Proof.Machine

/-- In ARM state a high register needs a legal mode. -/
theorem resolve_high_of_no_mode {w : Word} (n : Fin 5) (ht : decodeState w = .arm) (h : decodeMode w = none) :
    resolve (.high n) w = .error .invalidMachineState := by
  simp [resolve, resolveHigh, ht, h]

theorem resolve_high_of_fiq {w : Word} (n : Fin 5) (ht : decodeState w = .arm) (h : decodeMode w = some .fiq) :
    resolve (.high n) w = .ok (.hiFiq n) := resolve_high_of_mode n ht h

theorem resolve_high_of_not_fiq {w : Word} {m : Mode} (n : Fin 5) (ht : decodeState w = .arm) (h : decodeMode w = some m) (hm : m ≠ .fiq) :
    resolve (.high n) w = .ok (.hiUsr n) := by
  rw [resolve_high_of_mode n ht h, if_neg hm]

/-- Settles O17: NOP is its response. -/
theorem nopCompletes : Obligations.NopCompletes := fun _ _ => rfl

/-- Settles O18: both references resolve under every status word. -/
theorem readLowAndPc : Obligations.ReadLowAndPc := fun _ =>
  ⟨fun n => exec_rdInstr_of_ok (ref := .low n) (resolve_low n _), exec_rdInstr_of_ok (ref := .pc) (resolve_pc _)⟩

/-- Settles O19: the reference resolves under every status word. -/
theorem readCpsr : Obligations.ReadCpsr := fun _ => exec_rdInstr_of_ok (ref := .cpsr) (resolve_cpsr _)

/-- Settles O20, by the four things a high register can resolve to. -/
theorem readHigh : Obligations.ReadHigh := fun _ n =>
  ⟨fun ht => exec_rdInstr_error (ref := .high n) (resolve_high_of_thumb n ht),
    fun ht => ⟨fun h => exec_rdInstr_error (ref := .high n) (resolve_high_of_no_mode n ht h),
      fun h => exec_rdInstr_of_ok (ref := .high n) (resolve_high_of_fiq n ht h),
      fun _ hm h => exec_rdInstr_of_ok (ref := .high n) (resolve_high_of_not_fiq n ht h hm)⟩⟩

/-- Settles O23: the references resolve as for RD, and the write goes to that one slot. -/
theorem writeLowAndPc : Obligations.WriteLowAndPc := fun _ =>
  ⟨fun n => exec_wrInstr_of_ok (ref := .low n) (resolve_low n _), exec_wrInstr_of_ok (ref := .pc) (resolve_pc _)⟩

/-- Settles O24: the reference resolves under every status word, and the write is unchecked. -/
theorem writeCpsr : Obligations.WriteCpsr := fun _ => exec_wrInstr_of_ok (ref := .cpsr) (resolve_cpsr _)

/-- Settles O25: the reference resolves as for RD, and an error leaves every slot as it was. -/
theorem writeHigh : Obligations.WriteHigh := fun _ n =>
  ⟨fun ht => exec_wrInstr_error (ref := .high n) (resolve_high_of_thumb n ht),
    fun ht => ⟨fun h => exec_wrInstr_error (ref := .high n) (resolve_high_of_no_mode n ht h),
      fun h => exec_wrInstr_of_ok (ref := .high n) (resolve_high_of_fiq n ht h),
      fun _ hm h => exec_wrInstr_of_ok (ref := .high n) (resolve_high_of_not_fiq n ht h hm)⟩⟩

/-- Settles O32: a write that answered OK had a slot, the reference still resolves to it, and the slot holds the value. -/
theorem writtenValueIsReadBack : Obligations.WrittenValueIsReadBack := by
  intro ref s t h hok
  rcases hres : resolve ref s.regs.cpsr with e | sl
  · rw [exec_wrInstr, writeRef_of_error hres] at h
    rw [(raiseError_next h).2] at hok
    cases hok
  · have hregs : t.regs = s.regs.write sl s.port.reqWdata := by rw [exec_wrInstr_ok h hres, respond_regs]
    have hres' : resolve ref t.regs.cpsr = .ok sl := by rw [hregs, resolve_after_write hres]
    have hread : t.regs.read sl = s.port.reqWdata := by rw [hregs, read_write_self]
    rw [exec_rdInstr_of_ok hres', hread]

/-- An answer does not depend on the response before it. -/
theorem answer_resp (x : Except RegError Word) (s : State) (q : Response) : answer x { s with resp := q } = answer x s := by
  rcases x with (_ | _) | v
  · rfl
  · rfl
  · rfl

/-- No command reads the response outputs (R25). -/
theorem exec_resp (i : Instr) (s : State) (q : Response) : exec i { s with resp := q } = exec i s := by
  cases i.family with
  | nop ign => rfl
  | mode ign => exact answer_resp _ s q
  | state ign => exact answer_resp _ s q
  | rd ref => rw [exec_rdInstr, exec_rdInstr]; exact answer_resp _ s q
  | reserved h => rw [exec_reserved h, exec_reserved h]
  | wr ref =>
    rcases hres : resolve ref s.regs.cpsr with e | sl
    · rw [exec_wrInstr_error hres, exec_wrInstr_error (s := { s with resp := q }) hres, answer_resp]
    · rw [exec_wrInstr_of_ok hres, exec_wrInstr_of_ok (s := { s with resp := q }) hres]

/-- Settles O39, by the three kinds of cycle: a reset and an idle cycle set the response, and so does every command. -/
theorem noErrorIsRemembered : Obligations.NoErrorIsRemembered := by
  intro s q
  rcases hr : s.port.rst with _ | _
  · rcases hv : s.port.reqValid with _ | _
    · rw [step_of_idle hr hv, step_of_idle (s := { s with resp := q }) hr hv]
      rfl
    · rw [step_of_command hr hv, step_of_command (s := { s with resp := q }) hr hv, exec_resp]
      rfl
  · rw [step_of_reset hr, step_of_reset (s := { s with resp := q }) hr]
    rfl

end Sys2Proof.Machine

/-! The block's own cycle (60_exceptions.md R83, R86 to R90): its response to every outcome, and the order of the checks. -/

namespace Sys2Proof.Machine

/-- Settles O35, outcome by outcome. -/
theorem blockGoesOnWhereARunStops : Obligations.BlockGoesOnWhereARunStops := by
  refine fun s => ⟨fun t h => ?_, fun f h => ?_, fun r h => ?_⟩
  · rw [blockStep, h]
  · rw [blockStep, h]
    cases f
    rfl
  · rw [blockStep, h]
    rfl

/-- Settles O33: a step that goes on and is not OK was an invalid access, and where a run stops the block writes nothing. -/
theorem failedCommandsWriteNothing : Obligations.FailedCommandsWriteNothing := by
  intro s hne
  obtain ⟨hnext, hfault, hrefused⟩ := blockGoesOnWhereARunStops s
  rw [State.respOut] at hne ⊢
  rcases h : step s with t | f | r
  · rw [hnext t h] at hne ⊢
    rcases step_next h with ⟨-, rfl⟩ | ⟨-, -, rfl⟩ | ⟨-, -, u, hu, rfl⟩
    · exact absurd rfl hne
    · exact absurd rfl hne
    · rcases exec_next hu with ⟨_, _, -, -, rfl⟩ | ⟨-, v, rfl⟩ | rfl
      · exact absurd rfl hne
      · exact absurd rfl hne
      · exact ⟨rfl, rfl⟩
  · rw [hfault f h]
    exact ⟨rfl, rfl⟩
  · rw [hrefused r h]
    exact ⟨rfl, rfl⟩

/-- The block's response to the outcome of a command (R86 to R88). -/
def outcomeResponse : StepResult → Response
  | .next t => t.resp
  | .fault f => faultResponse f
  | .refused r => refusalResponse r

theorem respOut_of_command {s : State} (hr : s.port.rst = false) (hv : s.port.reqValid = true) :
    s.respOut = outcomeResponse (exec s.command s) := by
  rw [State.respOut, blockStep, step_of_command hr hv]
  rcases exec s.command s with t | f | r
  · rfl
  · rfl
  · rfl

/-- The response code of an access error (R51, R85). -/
def errorCode : RegError → RespCode
  | .invalidMachineState => .invalidMachineState
  | .invalidAccess _ => .invalidAccess

/-- The response code of a register access or query (R51). -/
def resultCode {α : Type} : Except RegError α → RespCode
  | .ok _ => .ok
  | .error e => errorCode e

theorem code_answer (x : Except RegError Word) (s : State) : (outcomeResponse (answer x s)).code = resultCode x := by
  rcases x with (_ | _) | v
  · rfl
  · rfl
  · rfl

theorem code_rdInstr (ref : RegRef) (s : State) :
    (outcomeResponse (exec (rdInstr ref) s)).code = resultCode (resolve ref s.regs.cpsr) := by
  rcases hres : resolve ref s.regs.cpsr with e | sl
  · rw [exec_rdInstr_error hres, code_answer]
    rfl
  · rw [exec_rdInstr_of_ok hres]
    rfl

theorem code_wrInstr (ref : RegRef) (s : State) :
    (outcomeResponse (exec (wrInstr ref) s)).code = resultCode (resolve ref s.regs.cpsr) := by
  rcases hres : resolve ref s.regs.cpsr with e | sl
  · rw [exec_wrInstr_error hres, code_answer]
    rfl
  · rw [exec_wrInstr_of_ok hres]
    rfl

/-- The response code of the first check of R90 that applies to a command under the status word `w`. -/
def firstCheck (i : Instr) (w : Word) : RespCode :=
  if i.isReserved = true then .reservedEncoding
  else if touchesHigh i = true ∧ w.getLsbD 5 = true then .invalidAccess
  else if needsMode i = true ∧ decodeMode w = none then .invalidMachineState
  else if touchesSpsr i = true ∧ (decodeMode w = some .user ∨ decodeMode w = some .system) then .invalidAccess
  else .ok

/-- MODE, STATE, SP and LR have the one check of the mode. -/
theorem firstCheck_of_needsMode {i : Instr} (hres : i.isReserved = false) (hhigh : touchesHigh i = false) (hmode : needsMode i = true)
    (hspsr : touchesSpsr i = false) (w : Word) : firstCheck i w = if decodeMode w = none then .invalidMachineState else .ok := by
  simp [firstCheck, hres, hhigh, hmode, hspsr]

theorem firstCheck_rdHi (n : Fin 5) (w : Word) :
    firstCheck (.rdHi n) w =
      if w.getLsbD 5 = true then .invalidAccess else if decodeMode w = none then .invalidMachineState else .ok := by
  simp [firstCheck, Instr.isReserved, touchesHigh, needsMode, touchesSpsr]

theorem firstCheck_rdSpsr (w : Word) :
    firstCheck .rdSpsr w =
      if decodeMode w = none then .invalidMachineState
      else if decodeMode w = some .user ∨ decodeMode w = some .system then .invalidAccess else .ok := by
  simp [firstCheck, Instr.isReserved, touchesHigh, needsMode, touchesSpsr]

/-- The checks of a read are made in resolving its reference. -/
theorem resultCode_resolve (ref : RegRef) (w : Word) : resultCode (resolve ref w) = firstCheck (rdInstr ref) w := by
  cases ref with
  | low n => rfl
  | pc => rfl
  | cpsr => rfl
  | sp =>
    rw [firstCheck_of_needsMode rfl rfl rfl rfl]
    rcases hm : decodeMode w with _ | m
    · rw [resolve_sp_of_no_mode hm]
      rfl
    · rw [resolve_sp_of_mode hm]
      rfl
  | lr =>
    rw [firstCheck_of_needsMode rfl rfl rfl rfl]
    rcases hm : decodeMode w with _ | m
    · rw [resolve_lr_of_no_mode hm]
      rfl
    · rw [resolve_lr_of_mode hm]
      rfl
  | high n =>
    rw [rdInstr, firstCheck_rdHi]
    rcases ht : decodeState w with _ | _
    · rw [(decodeState_eq_arm_iff w).1 ht]
      rcases hm : decodeMode w with _ | m
      · rw [resolve_high_of_no_mode n ht hm]
        rfl
      · rw [resolve_high_of_mode n ht hm]
        rfl
    · rw [(decodeState_eq_thumb_iff w).1 ht, resolve_high_of_thumb n ht]
      rfl
  | spsr =>
    rw [rdInstr, firstCheck_rdSpsr]
    rcases hm : decodeMode w with _ | m
    · rw [resolve_spsr_of_no_mode hm]
      rfl
    · rcases bankIndex_zero_or_succ m with h0 | ⟨j, hj⟩
      · rw [resolve_spsr_of_bank_zero hm h0]
        simp [h0, resultCode, errorCode]
      · have h0 : ¬ (m = .user ∨ m = .system) := fun h => by simp [bankIndex_eq_zero h] at hj
        rw [resolve_spsr_of_mode hm hj]
        simp [h0, resultCode]

/-- A write is checked as a read of the same reference is. -/
theorem firstCheck_wrInstr (ref : RegRef) (w : Word) : firstCheck (wrInstr ref) w = firstCheck (rdInstr ref) w := by
  cases ref <;> rfl

/-- The block answers a command with the code of the first check that applies (R90). -/
theorem code_exec (i : Instr) (s : State) : (outcomeResponse (exec i s)).code = firstCheck i s.regs.cpsr := by
  cases i.family with
  | nop ign => rfl
  | rd ref => rw [code_rdInstr, resultCode_resolve]
  | wr ref => rw [code_wrInstr, resultCode_resolve, firstCheck_wrInstr]
  | reserved h =>
    rw [exec_reserved h, firstCheck, if_pos h]
    rfl
  | mode ign =>
    rw [firstCheck_of_needsMode rfl rfl rfl rfl]
    rcases hm : decodeMode s.regs.cpsr with _ | m
    · rw [(modeQuery s ign).2 hm]
      rfl
    · rw [(modeQuery s ign).1 m hm]
      rfl
  | state ign =>
    rw [firstCheck_of_needsMode rfl rfl rfl rfl]
    rcases hm : decodeMode s.regs.cpsr with _ | m
    · rw [(stateQuery s ign).2 hm]
      rfl
    · rw [(stateQuery s ign).1 m hm]
      rfl

/-- Settles O34: the response is that of the presented command, whose code is the first check's. -/
theorem oneErrorPerStepInOrder : Obligations.OneErrorPerStepInOrder := by
  intro s hr hv
  rw [respOut_of_command hr hv, code_exec]
  rfl

end Sys2Proof.Machine

/-! Isolation between modes (41_access.md R84): a value is written in one mode, CPSR switched, and the same reference read. -/

namespace Sys2Proof.Machine

section Switch

variable {s : State} {ref : RegRef} {sl sl' : Slot} {w : Word} (v : Word)

/-- What the second mode reads is the value where the reference resolves to the same slot in both, else its own slot as it was. -/
theorem run_write_switch_read (ha : resolve ref s.regs.cpsr = .ok sl) (hb : resolve ref w = .ok sl') (hsl' : sl' ≠ .cpsr) :
    ∃ t, Host.Core.run core 3 (s.withScript [.wr ref v, .wr .cpsr w, .rd ref]) = .next t ∧
      t.resp = ⟨.ok, if sl' = sl then v else s.regs.read sl'⟩ := by
  have hread : (((s.regs.write sl v).write .cpsr w).read sl') = if sl' = sl then v else s.regs.read sl' := by
    rw [read_write_of_ne _ w hsl', read_write]
  rw [withScript_eq, run_succ_of_next (step_scripted_wr ha), run_succ_of_next (step_scripted_wr (resolve_cpsr _)),
    run_succ_of_next (step_scripted_rd (r := (s.regs.write sl v).write .cpsr w) hb), hread]
  exact ⟨_, run_zero _, rfl⟩

/-- As `run_write_switch_read`, with the comparison of slots put as one of modes. -/
theorem run_write_switch_read_iff {P : Prop} [Decidable P] {d : Word} (ha : resolve ref s.regs.cpsr = .ok sl)
    (hb : resolve ref w = .ok sl') (hsl' : sl' ≠ .cpsr) (hP : sl' = sl ↔ P) (hd : s.regs.read sl' = d) :
    ∃ t, Host.Core.run core 3 (s.withScript [.wr ref v, .wr .cpsr w, .rd ref]) = .next t ∧ t.resp = ⟨.ok, if P then v else d⟩ := by
  subst hd
  simpa only [hP] using run_write_switch_read v ha hb hsl'

end Switch

/-- Settles O42: the slots of two modes are the same where their bank indices are. -/
theorem stackAndLinkAreIsolated : Obligations.StackAndLinkAreIsolated := fun s w v a b ha hb =>
  ⟨bankIndex_eq_iff a b,
    run_write_switch_read_iff v (resolve_sp_of_mode ha) (resolve_sp_of_mode hb) nofun (by rw [Slot.sp.injEq, eq_comm]) rfl,
    run_write_switch_read_iff v (resolve_lr_of_mode ha) (resolve_lr_of_mode hb) nofun (by rw [Slot.lr.injEq, eq_comm]) rfl⟩

/-- The slot of a high register in ARM state (R21). -/
def highSlot (n : Fin 5) (m : Mode) : Slot := if m = .fiq then .hiFiq n else .hiUsr n

theorem highSlot_ne_cpsr (n : Fin 5) (m : Mode) : highSlot n m ≠ .cpsr := by
  unfold highSlot
  split <;> exact nofun

theorem highSlot_eq_iff (n : Fin 5) (a b : Mode) : highSlot n b = highSlot n a ↔ (a = .fiq ↔ b = .fiq) := by
  by_cases ha : a = .fiq <;> by_cases hb : b = .fiq <;> simp [highSlot, ha, hb]

theorem read_highSlot (r : RegFile) (n : Fin 5) (m : Mode) : r.read (highSlot n m) = if m = .fiq then r.hiFiq[n] else r.hiUsr[n] := by
  unfold highSlot
  split <;> rfl

/-- Settles O43: the slots of two modes are the same where both or neither is FIQ. -/
theorem highRegistersAreIsolated : Obligations.HighRegistersAreIsolated := fun s n _ v a b ha hta hb htb =>
  run_write_switch_read_iff v (resolve_high_of_mode n hta ha) (resolve_high_of_mode n htb hb) (highSlot_ne_cpsr n b) (highSlot_eq_iff n a b)
    (read_highSlot s.regs n b)

/-- Modes with an SPSR share no bank. -/
theorem spsr_eq_iff {a b : Mode} {i j : Fin 5} (ha : (bankIndex a).val = i.val + 1) (hb : (bankIndex b).val = j.val + 1) :
    Slot.spsr j = Slot.spsr i ↔ a = b := by
  have hbank : Slot.spsr j = Slot.spsr i ↔ bankIndex a = bankIndex b := by
    rw [Slot.spsr.injEq, Fin.ext_iff, Fin.ext_iff]
    omega
  rw [hbank, bankIndex_eq_iff, or_iff_left]
  rintro (⟨rfl, -⟩ | ⟨rfl, -⟩) <;> cases ha

/-- Settles O44: a mode with an SPSR has a bank of its own. -/
theorem savedStatusIsIsolated : Obligations.SavedStatusIsIsolated := by
  intro s w v a b j ha hu hs hb hj
  rcases bankIndex_zero_or_succ a with h0 | ⟨i, hi⟩
  · exact absurd h0 (not_or_intro hu hs)
  · exact run_write_switch_read_iff v (resolve_spsr_of_mode ha hi) (resolve_spsr_of_mode hb hj) nofun (spsr_eq_iff hi hj) rfl

/-- Settles O45: these references resolve to the same slot under every status word. -/
theorem unbankedRegistersAreShared : Obligations.UnbankedRegistersAreShared := by
  intro s n w v
  refine ⟨?_, ?_, ?_⟩
  · simpa using run_write_switch_read (s := s) (w := w) v (resolve_low n _) (resolve_low n w) nofun
  · simpa using run_write_switch_read (s := s) (w := w) v (resolve_pc _) (resolve_pc w) nofun
  · rw [withScript_eq, run_succ_of_next (step_scripted_wr (resolve_cpsr _)), run_succ_of_next (step_scripted_rd (resolve_cpsr _))]
    exact ⟨_, run_zero _, rfl⟩

end Sys2Proof.Machine

/-! What callers do with ordinary commands (30_encoding.md R58, 60_exceptions.md R93, R94, 70_reset_and_hazards.md R104). -/

namespace Sys2Proof.Machine

/-- A constant word is known from its 32 bits; it has none beyond. -/
theorem getLsbD_of_bits {c : Word} {p : Nat → Bool} (h : ∀ i : Fin 32, c.getLsbD i = p i) (k : Nat) :
    c.getLsbD k = (p k && decide (k < 32)) := by
  by_cases hk : k < 32
  · rw [h ⟨k, hk⟩, decide_eq_true hk, Bool.and_true]
  · rw [BitVec.getLsbD_of_ge _ _ (by omega), decide_eq_false hk, Bool.and_false]

/-- The mask of SETMODE keeps the bits above the mode field and no other (R58). -/
theorem getLsbD_modeMask (k : Nat) : (0xFFFFFFE0#32).getLsbD k = (decide (5 ≤ k) && decide (k < 32)) :=
  getLsbD_of_bits (p := fun k => decide (5 ≤ k)) (by decide) k

/-- The mask of SETSTATE to ARM clears the T bit and no other (R58). -/
theorem getLsbD_stateMask (k : Nat) : (0xFFFFFFDF#32).getLsbD k = (decide (k ≠ 5) && decide (k < 32)) :=
  getLsbD_of_bits (p := fun k => decide (k ≠ 5)) (by decide) k

/-- The operand of SETSTATE to Thumb is the T bit (R58). -/
theorem getLsbD_stateBit (k : Nat) : (0x00000020#32).getLsbD k = (decide (k = 5) && decide (k < 32)) :=
  getLsbD_of_bits (p := fun k => decide (k = 5)) (by decide) k

section Values

variable (v : Word) {k : Nat}

theorem getLsbD_and_lt (k : Nat) : (v.getLsbD k && decide (k < 32)) = v.getLsbD k := by
  by_cases hk : k < 32
  · simp [hk]
  · simp [BitVec.getLsbD_of_ge v k (by omega)]

theorem getLsbD_setModeValue (m : Mode) (hk : 5 ≤ k) : (setModeValue m v).getLsbD k = v.getLsbD k := by
  have hp : ((modePattern m).setWidth 32).getLsbD k = false := by
    simp [BitVec.getLsbD_setWidth, BitVec.getLsbD_of_ge (modePattern m) k hk]
  rw [setModeValue, BitVec.getLsbD_or, BitVec.getLsbD_and, getLsbD_modeMask, hp]
  simp [hk, getLsbD_and_lt]

theorem modeField_setModeValue (m : Mode) : modeField (setModeValue m v) = modePattern m := by
  ext i hi
  have hlt : i < 32 := by omega
  have hmask : (0xFFFFFFE0#32)[i] = false := by
    rw [← BitVec.getLsbD_eq_getElem, getLsbD_modeMask, decide_eq_false (by omega), Bool.false_and]
  simp [modeField, setModeValue, hmask, hlt, BitVec.getLsbD_eq_getElem hi]

theorem decodeMode_setModeValue (m : Mode) : decodeMode (setModeValue m v) = some m :=
  (decodeMode_eq_some_iff _ m).2 (modeField_setModeValue v m)

theorem getLsbD_setStateValue (st : InstrState) (hk : k ≠ 5) : (setStateValue st v).getLsbD k = v.getLsbD k := by
  cases st with
  | arm =>
    rw [setStateValue, BitVec.getLsbD_and, getLsbD_stateMask]
    simp [hk, getLsbD_and_lt]
  | thumb =>
    rw [setStateValue, BitVec.getLsbD_or, getLsbD_stateBit]
    simp [hk]

theorem decodeState_setStateValue (st : InstrState) : decodeState (setStateValue st v) = st := by
  cases st with
  | arm =>
    rw [decodeState_eq_arm_iff, setStateValue, BitVec.getLsbD_and, getLsbD_stateMask]
    simp
  | thumb =>
    rw [decodeState_eq_thumb_iff, setStateValue, BitVec.getLsbD_or, getLsbD_stateBit]
    simp

end Values

section Scripts

variable {r : RegFile} {q : Response} {l : List PortIn} {k : Nat}

/-- RD cpsr, then WR cpsr, the first two cycles of a script: CPSR alone changes. -/
theorem run_rd_wr_cpsr (w : Word) :
    Host.Core.run core (k + 2) (scripted r q (.rd .cpsr :: .wr .cpsr w :: l)) =
      Host.Core.run core k (scripted (r.write .cpsr w) ⟨.ok, 0#32⟩ l) := by
  rw [run_succ_of_next (step_scripted_rd (resolve_cpsr _)), run_succ_of_next (step_scripted_wr (resolve_cpsr _))]

/-- The slots after exception entry into mode `x`, CPSR saved in the SPSR at `j` (R93). -/
def entered (r : RegFile) (new ret vector : Word) (x : Mode) (j : Fin 5) : RegFile :=
  (((r.write .cpsr new).write (.spsr j) r.cpsr).write (.lr (bankIndex x)) ret).write .pc vector

/-- The slots after exception entry into a mode `x` that has no SPSR, CPSR saved nowhere (R93). -/
def enteredUnsaved (r : RegFile) (new ret vector : Word) (x : Mode) : RegFile :=
  ((r.write .cpsr new).write (.lr (bankIndex x)) ret).write .pc vector

variable {new ret vector : Word} {x : Mode} (hx : decodeMode new = some x)

include hx

/-- The last two cycles of an entry: the return address in the entered mode's LR and the vector in PC. -/
theorem run_wr_lr_pc (hc : r.cpsr = new) :
    Host.Core.run core (k + 2) (scripted r q (.wr .lr ret :: .wr .pc vector :: l)) =
      Host.Core.run core k (scripted ((r.write (.lr (bankIndex x)) ret).write .pc vector) ⟨.ok, 0#32⟩ l) := by
  subst hc
  rw [run_succ_of_next (step_scripted_wr (resolve_lr_of_mode hx)), run_succ_of_next (step_scripted_wr (resolve_pc _))]

theorem run_exceptionEntry {j : Fin 5} (hj : (bankIndex x).val = j.val + 1) :
    Host.Core.run core (k + 5) (scripted r q (exceptionEntry r.cpsr new ret vector ++ l)) =
      Host.Core.run core k (scripted (entered r new ret vector x j) ⟨.ok, 0#32⟩ l) := by
  simp only [exceptionEntry, List.cons_append, List.nil_append]
  rw [run_rd_wr_cpsr, run_succ_of_next (step_scripted_wr (r := r.write .cpsr new) (resolve_spsr_of_mode hx hj)), run_wr_lr_pc hx rfl, entered]

/-- The third cycle of an entry into User or System mode finds no SPSR: the saved status is dropped. -/
theorem run_three_exceptionEntry_unsaved (h0 : x = .user ∨ x = .system) :
    Host.Core.run core (k + 3) (scripted r q (exceptionEntry r.cpsr new ret vector ++ l)) =
      Host.Core.run core k (scripted (r.write .cpsr new) ⟨.invalidAccess, 0#32⟩ (.wr .lr ret :: .wr .pc vector :: l)) := by
  simp only [exceptionEntry, List.cons_append, List.nil_append]
  rw [run_rd_wr_cpsr, run_succ_of_next (step_scripted_wr_invalid (r := r.write .cpsr new) (resolve_spsr_of_bank_zero hx h0))]

theorem run_exceptionEntry_unsaved (h0 : x = .user ∨ x = .system) :
    Host.Core.run core (k + 5) (scripted r q (exceptionEntry r.cpsr new ret vector ++ l)) =
      Host.Core.run core k (scripted (enteredUnsaved r new ret vector x) ⟨.ok, 0#32⟩ l) := by
  rw [run_three_exceptionEntry_unsaved hx h0, run_wr_lr_pc hx rfl, enteredUnsaved]

/-- The return reads what entry saved and writes PC and, last, CPSR (R94). -/
theorem run_exceptionReturn {j : Fin 5} (hj : (bankIndex x).val = j.val + 1) (hc : r.cpsr = new) (target status : Word) :
    Host.Core.run core (k + 4) (scripted r q (exceptionReturn target status ++ l)) =
      Host.Core.run core k (scripted ((r.write .pc target).write .cpsr status) ⟨.ok, 0#32⟩ l) := by
  subst hc
  simp only [exceptionReturn, List.cons_append, List.nil_append]
  rw [run_succ_of_next (step_scripted_rd (resolve_spsr_of_mode hx hj)), run_succ_of_next (step_scripted_rd (resolve_lr_of_mode hx)),
    run_succ_of_next (step_scripted_wr (resolve_pc _)), run_succ_of_next (step_scripted_wr (resolve_cpsr _))]

end Scripts

/-- Settles O53: the script writes CPSR alone, with the named pattern in the mode field and the bits above it as read. -/
theorem setModeSetsTheModeOnly : Obligations.SetModeSetsTheModeOnly := by
  intro s m
  rw [withScript_eq, setModeScript, run_rd_wr_cpsr]
  exact ⟨_, run_zero _, rfl, decodeMode_setModeValue _ m, fun _ => getLsbD_setModeValue _ m⟩

/-- Settles O54: the script writes CPSR alone, with the named state in T and every other bit as read. -/
theorem setStateSetsTheStateOnly : Obligations.SetStateSetsTheStateOnly := by
  intro s st
  rw [withScript_eq, setStateScript, run_rd_wr_cpsr]
  exact ⟨_, run_zero _, rfl, decodeState_setStateValue _ st, fun _ => getLsbD_setStateValue _ st⟩

/-- Settles O55: after SETMODE the SP reference resolves to the named mode's bank. -/
theorem stackIsSetUp : Obligations.StackIsSetUp := by
  intro s m top
  have hmode := decodeMode_setModeValue s.regs.cpsr m
  have hsp : resolve .sp (s.regs.write .cpsr (setModeValue m s.regs.cpsr)).cpsr = .ok (.sp (bankIndex m)) := resolve_sp_of_mode hmode
  rw [withScript_eq, stackScript, setModeScript, List.cons_append, List.cons_append, run_rd_wr_cpsr, List.nil_append,
    run_succ_of_next (step_scripted_wr hsp)]
  refine ⟨_, run_zero _, hmode, ?_, fun sl hcpsr hne => ?_⟩
  · rw [scripted_regs, read_write_self]
  · rw [scripted_regs, read_write_of_ne _ _ hne, read_write_of_ne _ _ hcpsr]

/-- Settles O56: the entered mode has an SPSR or is of bank 0; in both the writes of the script are known one by one. -/
theorem sequencerEntersAnException : Obligations.SequencerEntersAnException := by
  intro s new ret vector x hx
  rw [withScript_eq, ← List.append_nil (exceptionEntry _ _ _ _)]
  refine ⟨fun j hj => ?_, fun h0 => ⟨?_, ?_⟩⟩
  · rw [run_exceptionEntry hx hj]
    exact ⟨_, run_zero _, rfl⟩
  · rw [run_three_exceptionEntry_unsaved hx h0]
    exact ⟨_, run_zero _, rfl⟩
  · rw [run_exceptionEntry_unsaved hx h0]
    exact ⟨_, run_zero _, rfl⟩

/-- What each slot holds after an entry and a return to the status word it saved. -/
theorem read_after_return (r : RegFile) (new ret vector target : Word) (x : Mode) (j : Fin 5) (sl : Slot) :
    (((entered r new ret vector x j).write .pc target).write .cpsr r.cpsr).read sl =
      if sl = .pc then target else if sl = .spsr j then r.cpsr else if sl = .lr (bankIndex x) then ret else r.read sl := by
  simp only [entered, read_write]
  by_cases hcpsr : sl = .cpsr
  · subst hcpsr
    simp
  · by_cases hlr : sl = .lr (bankIndex x)
    · subst hlr
      simp
    · simp only [hcpsr, hlr, if_false]
      split <;> rfl

/-- Settles O57: entry, then return under the status word that entry left. -/
theorem sequencerReturnsToTheInterruptedMode : Obligations.SequencerReturnsToTheInterruptedMode := by
  intro s new ret vector target x j hx hj
  have hread := read_after_return s.regs new ret vector target x j
  rw [withScript_eq, run_exceptionEntry hx hj, ← List.append_nil (exceptionReturn _ _), run_exceptionReturn hx hj rfl]
  refine ⟨_, run_zero _, ?_, ?_, ?_, ?_, fun sl hpc hspsr hlr => ?_⟩ <;> rw [scripted_regs]
  · rw [write_cpsr_cpsr]
  · simpa using hread .pc
  · simpa using hread (.spsr j)
  · simpa using hread (.lr (bankIndex x))
  · simpa [hpc, hspsr, hlr] using hread sl

end Sys2Proof.Machine
